-- ==== Sys2Proof/Word.lean ====
section
/-! DEFINITION. The words the part's records are made of. Only names stand here: every byte-order and
field helper is in Machine/Bytes.lean. -/

namespace Sys2Proof

/-- One byte of a record, of the cell memory, of a browse context or of the settings flash. -/
abbrev Byte := BitVec 8

/-- A byte string, first byte first. -/
abbrev Bytes := List Byte

/-- A 16-bit number that wraps: a frame count, a path sequence, an exchange count (R167). -/
abbrev Half := BitVec 16

/-- A 32-bit number: a stream tag, a take id, a timecode, or a count of range 0..4,294,967,295. -/
abbrev Word := BitVec 32

/-- A feed number 0..7 (00_scope, Numbering of parts). -/
abbrev FeedNo := Fin 8

/-- A store lane 0..1. -/
abbrev LaneNo := Fin 2

/-- A tag 0..7 of one lane. -/
abbrev TagNo := Fin 8

end Sys2Proof
end

