-- ==== Sys2Proof/Config.lean ====
section
/-! DEFINITION. The numbers the manual fixes for every UMK-6C, and the values it leaves open (opaque: nothing
in Lean can evaluate them or prove a value of them). -/

namespace Sys2Proof.Config

/-- Cells of the attached DRAM (R42). -/
abbrev cellCount : Nat := 131072
/-- Bytes of one cell (R42). -/
abbrev cellBytes : Nat := 2048
/-- CELL_LOW is set below this free count (R49). -/
abbrev cellLowMark : Nat := 8192
/-- Entries of one index page (R93). -/
abbrev pageEntries : Nat := 63
/-- Bytes of one index page (R97). -/
abbrev pageBytes : Nat := 2048
/-- Bytes of one browse context (R108). -/
abbrev contextBytes : Nat := 49152
/-- Queue capacities (R129). -/
abbrev indexCapacity : Nat := 16
abbrev essenceCapacity : Nat := 64
abbrev browseCapacity : Nat := 32
/-- Frame records one window can hold; distances 0..31 are in the window (R18, R23). -/
abbrev windowSpan : Nat := 32
/-- First distance of the late region (R18). -/
abbrev lateFrom : Nat := 49152
/-- Most pieces of one slice or of one audio block (R51, R65). -/
abbrev maxPieces : Nat := 16
/-- Largest frame unit (R3, R61). -/
abbrev maxFrame : Nat := 1048576
/-- Reply body bytes of one frame (R174, R191). -/
abbrev partBytes : Nat := 122
/-- Bytes of one control frame (R191). -/
abbrev frameBytes : Nat := 128

/-- OPEN (R133): when both lanes could send, which lane's choice is taken first; `true` is lane 1.
The argument is the model's free-value counter. DESIGN CHOICE: assumption 4. -/
opaque laneFirst : Nat → Bool

/-- OPEN (R188, R189): at which step (0 erasing, 1 programming, 2 comparing) a save stands when the next
event finds it in a region. The argument is the model's free-value counter. DESIGN CHOICE: assumption 5. -/
opaque saveStep : Nat → Fin 3

/-- OPEN (R188): byte `j` of the erased or part-programmed image a cut save leaves in the affected
sector. DESIGN CHOICE: assumption 5. -/
opaque cutByte : Nat → Nat → BitVec 8

end Sys2Proof.Config
end

