-- ==== Sys2Proof/Syntax.lean ====
section
/-! DEFINITION. The commands of the part: one constructor per row of spec/opcode_table.json, with the
operands the row's rule names. Every constructor but the two resets from outside carries `t`, the station
time in µs at which the event is taken (assumption 1). The rows of the control link's requests carry no other
operand: their arguments are the bytes of the request in processing, which an SPI_EXCHANGE clocked in and
State holds (R167, R168, R191; assumption 3). -/

namespace Sys2Proof

/-- An exchange in progress (select low) when a reset is taken (R170): how many bits had been clocked before
the reset and how many are clocked after it (assumption 22). -/
structure ExchangeCut where
  before : Nat
  after  : Nat
  deriving DecidableEq, Repr

/-- The commands. -/
inductive Instr where
  /-- POWER_ON (R184). -/
  | powerOn (cut : Option ExchangeCut)
  /-- RESET_LINE (R184); `cut` is the exchange it ends, if select is low (R170). -/
  | resetLine (cut : Option ExchangeCut)
  /-- REGION_READ (R185): the next region's read finishes; `answers` is whether the flash answered (R182). -/
  | regionRead (t : Nat) (answers : Bool)
  /-- ETHERNET_FRAME (R1): the frame's bytes as the line side delivers them, destination address first, frame
  check sequence last. -/
  | ethernetFrame (t : Nat) (frame : Bytes)
  /-- DEADLINE_EXPIRY (R27) of one feed. -/
  | deadlineExpiry (t : Nat) (feed : FeedNo)
  /-- PUBLISH_TIMER_EXPIRY (R96) of one feed's take. -/
  | publishTimerExpiry (t : Nat) (feed : FeedNo)
  /-- COMPLETION (R136): the lane it arrives on and its four bytes (R190). -/
  | completion (t : Nat) (lane : LaneNo) (epoch tag result pad : Byte)
  /-- STORE_TIMEOUT (R139) of one tag. -/
  | storeTimeout (t : Nat) (lane : LaneNo) (tag : TagNo)
  /-- SETTLING_END (R145). -/
  | settlingEnd (t : Nat)
  /-- INTERVAL_END (R151). -/
  | intervalEnd (t : Nat)
  /-- SPI_EXCHANGE (R168): the number of bits clocked, and the bytes the host drove. -/
  | spiExchange (t : Nat) (bits : Nat) (mosi : Bytes)
  /-- NEXT_PART (R174). -/
  | nextPart (t : Nat)
  /-- HELLO (R180). -/
  | hello (t : Nat)
  /-- SET FEED (R5). -/
  | setFeed (t : Nat)
  /-- READ FEED (R5). -/
  | readFeed (t : Nat)
  /-- FEED STATUS (R173). -/
  | feedStatus (t : Nat)
  /-- ARM TAKE (R81, R82). -/
  | armTake (t : Nat)
  /-- STOP TAKE (R84). -/
  | stopTake (t : Nat)
  /-- ABORT TAKE (R88). -/
  | abortTake (t : Nat)
  /-- RELEASE TAKE (R91). -/
  | releaseTake (t : Nat)
  /-- TAKE STATUS (R104). -/
  | takeStatus (t : Nat)
  /-- FLUSH INDEX (R99). -/
  | flushIndex (t : Nat)
  /-- SET MONITOR (R150). -/
  | setMonitor (t : Nat)
  /-- SET ACTIONS (R157). -/
  | setActions (t : Nat)
  /-- READ CONDITIONS (R164). -/
  | readConditions (t : Nat)
  /-- CLEAR CONDITIONS (R163). -/
  | clearConditions (t : Nat)
  /-- READ NOTICES (R179). -/
  | readNotices (t : Nat)
  /-- CLEAR NOTICES (R179). -/
  | clearNotices (t : Nat)
  /-- SET NOTICE ENABLES (R179). -/
  | setNoticeEnables (t : Nat)
  /-- SET STORE (R131). -/
  | setStore (t : Nat)
  /-- STORE STATUS (R147). -/
  | storeStatus (t : Nat)
  /-- RESET STORE (R144). -/
  | resetStore (t : Nat)
  /-- SAVE SETTINGS (R186). -/
  | saveSettings (t : Nat)
  /-- REGION_WRITE (R187): whether the flash answered every erase, program and read, and what the region
  then holds (`none`: exactly the programmed bytes). -/
  | regionWrite (t : Nat) (answers : Bool) (held : Option Bytes)
  /-- RESET (R181); `cut` is the exchange in progress it ends (R170). -/
  | reset (t : Nat) (cut : Option ExchangeCut)
  deriving DecidableEq, Repr

end Sys2Proof
end

