-- ==== Sys2Proof/WellFormed.lean ====
section
/-! DEFINITION. What makes a command well formed: the checks the spec puts on what can reach the part. Each
check is its own definition, and Sys2Proof/Tests/Slice0.lean holds an ill-formed command that each refuses. -/

namespace Sys2Proof

/-- Station time is a 64-bit count (00_scope, Station time). -/
def timeFits (t : Nat) : Bool := decide (t < 2 ^ 64)

/-- The bytes of an exchange are those its clocked bits fill (R168): one byte for each 8 bits begun. -/
def exchangeFits (bits : Nat) (mosi : Bytes) : Bool := decide (mosi.length = (bits + 7) / 8)

/-- A region holds at most 1,024 bytes (R182), so no more can be found in it. -/
def heldFits : Option Bytes → Bool
  | none => true
  | some bs => decide (bs.length ≤ 1024)

/-- A delivered frame has at least one byte. -/
def frameFits (frame : Bytes) : Bool := !frame.isEmpty

/-- The station time a command carries, where it carries one. -/
def Instr.time : Instr → Option Nat
  | .powerOn _ => none
  | .resetLine _ => none
  | .regionRead t _ => some t
  | .ethernetFrame t _ => some t
  | .deadlineExpiry t _ => some t
  | .publishTimerExpiry t _ => some t
  | .completion t _ _ _ _ _ => some t
  | .storeTimeout t _ _ => some t
  | .settlingEnd t => some t
  | .intervalEnd t => some t
  | .spiExchange t _ _ => some t
  | .nextPart t => some t
  | .hello t => some t
  | .setFeed t => some t
  | .readFeed t => some t
  | .feedStatus t => some t
  | .armTake t => some t
  | .stopTake t => some t
  | .abortTake t => some t
  | .releaseTake t => some t
  | .takeStatus t => some t
  | .flushIndex t => some t
  | .setMonitor t => some t
  | .setActions t => some t
  | .readConditions t => some t
  | .clearConditions t => some t
  | .readNotices t => some t
  | .clearNotices t => some t
  | .setNoticeEnables t => some t
  | .setStore t => some t
  | .storeStatus t => some t
  | .resetStore t => some t
  | .saveSettings t => some t
  | .regionWrite t _ _ => some t
  | .reset t _ => some t

/-- A well-formed command: its time fits, and its own operands do. -/
def Instr.wellFormed (c : Instr) : Bool :=
  (match c.time with | some t => timeFits t | none => true) &&
  (match c with
   | .ethernetFrame _ frame => frameFits frame
   | .spiExchange _ bits mosi => exchangeFits bits mosi
   | .regionWrite _ _ held => heldFits held
   | _ => true)

end Sys2Proof
end

