-- ==== Sys2Proof/Decode.lean ====
section
/-! DEFINITION. The command a table word spells. spec/opcode_table.json gives bits to no row (every row's
"fields" is empty and none has "fixed"), so no word spells a command. The bytes the part itself decodes
(field packets, COMPLETION messages, request frames, settings regions) are decoded in Sys2Proof/Machine. -/

namespace Sys2Proof

/-- No row of the table has bits, so no word spells a command. -/
def decodeTableWord (_nbits _w : Nat) : Option Instr := none

end Sys2Proof
end

