-- ==== Sys2Proof/Machine/State.lean ====
section
/-! DEFINITION. Everything the UMK-6C holds, as plain data, and its value right after reset. One structure per
block of 00_scope's block overview. The docstring of a field names the rule that gives it. -/

namespace Sys2Proof.Machine

/-! ## Why a command stops -/

/-- The part reports nothing by stopping: no rule gives a command that stops it, so there is no fault
(assumption 30). -/
inductive Fault where
  deriving DecidableEq, Repr

/-- A command without a meaning. -/
inductive Refusal where
  /-- Raised by `exec` for a row that has no meaning yet. Safe: the run stops there. -/
  | notModelled (mnemonic : String)
  deriving DecidableEq, Repr

/-! ## Line port and intake -/

/-- The line port (R1, R2). -/
structure LinePort where
  address  : Word
  udpPort  : Nat
  accepted : Word
  heldOff  : Word
  corrupt  : Word
  foreign  : Word
  deriving DecidableEq, Repr

/-- Intake's device-wide counts (R3, R6). -/
structure IntakeCounts where
  malformed : Word
  unclaimed : Word
  deriving DecidableEq, Repr

/-- One entry of the feed table (R4). -/
structure FeedEntry where
  tag     : Word
  enable  : Bool
  paths   : BitVec 4
  depth   : Nat
  jump    : Nat
  publish : Nat
  deriving DecidableEq, Repr

/-- The accounting of one path of one feed (R9). -/
structure PathAcc where
  last        : Option Half
  intReceived : Word
  intExpected : Word
  received    : Word
  expected    : Word
  dropped     : Word
  deriving DecidableEq, Repr

/-- What intake keeps for one feed (R7, R8, R9). -/
structure FeedIntake where
  noTake       : Word
  pathDisabled : Word
  paths        : Vector PathAcc 4
  deriving DecidableEq, Repr

/-! ## Window unit -/

/-- A fragment held in a frame record (R17). -/
structure Held where
  index  : Nat
  offset : Nat
  length : Nat
  cell   : Nat
  deriving DecidableEq, Repr

/-- A frame record (R17). `held` is in ascending fragment index. Its state, FILLING or COMPLETE, is
`FrameRecord.complete` (R24). -/
structure FrameRecord where
  frame    : Half
  declared : Nat
  held     : List Held
  first    : Nat
  deadline : Nat
  deriving DecidableEq, Repr

/-- The window unit's interval counts of one feed (R34). -/
structure WindowInterval where
  late          : Word
  overrun       : Word
  discontinuity : Word
  cellShort     : Word
  deriving DecidableEq, Repr

/-- The window unit's totals of one feed (R35). -/
structure WindowTotals where
  late          : Word
  duplicate     : Word
  overlap       : Word
  mismatch      : Word
  cellShort     : Word
  overrun       : Word
  discontinuity : Word
  complete      : Word
  partials      : Word
  absent        : Word
  discarded     : Word
  deriving DecidableEq, Repr

/-- The reassembly window of one feed (R16). `records` is in order of distance from the base; the deadline
timer (R27) is aimed at the deadline of its first record. -/
structure Window where
  base     : Option Half
  records  : List FrameRecord
  mark     : Bool
  interval : WindowInterval
  totals   : WindowTotals
  deriving DecidableEq, Repr

/-! ## Cells and slice sources -/

/-- The cell memory (R42). `refs` lists the cells whose reference count is not 0, in rising cell number;
`free` is the free list as runs (first cell, how many), head first; `bytes` is the DRAM, byte `i` of cell `c`
at address 2,048 × c + i. -/
structure CellMem where
  refs      : List (Nat × Nat)
  free      : List (Nat × Nat)
  freeCount : Nat
  freeLow   : Nat
  bytes     : List Host.Cell
  deriving DecidableEq, Repr

/-- A piece of a slice or of the audio: a cell, an offset within its payload, a length (R50). -/
structure Piece where
  cell   : Nat
  offset : Nat
  length : Nat
  deriving DecidableEq, Repr

/-- A present entry of a slice source table (R50). -/
structure SourceEntry where
  pieces  : List Piece
  length  : Nat
  ordinal : Nat
  deriving DecidableEq, Repr

/-! ## Takes -/

/-- Take states, in the order that codes them (R80, R190). -/
inductive TakeState where
  | idle | armed | recording | draining | closed | aborting | aborted | faulted
  deriving DecidableEq, Repr

/-- End causes other than none (R80). -/
inductive EndCause where
  | stopped | essenceFull | indexFull | aborted | essenceFailed | indexFailed | storeReset
  deriving DecidableEq, Repr

/-- Browse profiles (R80, R107). -/
inductive Profile where
  | none | eighth | sixteenth
  deriving DecidableEq, Repr

/-- Rasters 1, 2 and 3 (R50). -/
inductive Raster where
  | r720 | r1080 | r2160
  deriving DecidableEq, Repr

/-- An area of the media store (R80). -/
structure Area where
  base   : Nat
  length : Nat
  deriving DecidableEq, Repr

/-- The last recorded reference of a take (R57). -/
structure LastRef where
  ordinal  : Nat
  offset   : Nat
  length   : Nat
  timecode : Word
  deriving DecidableEq, Repr

/-- The composer's totals of one take (R78). -/
structure ComposeTotals where
  whole        : Word
  patched      : Word
  absent       : Word
  headerless   : Word
  malformed    : Word
  format       : Word
  backlog      : Word
  noCell       : Word
  substituted  : Word
  filler       : Word
  missing      : Word
  damaged      : Word
  split        : Word
  audioFilled  : Word
  essenceBytes : Word
  deriving DecidableEq, Repr

/-- The composition state of one take (R57) with its slice source table (R50). The next ordinal is the count
the take manager calls released. -/
structure Composition where
  raster      : Option Raster
  rate        : Option Byte
  nextOrdinal : Nat
  nextOffset  : Nat
  lastRef     : Option LastRef
  sources     : List (Option SourceEntry)
  totals      : ComposeTotals
  deriving DecidableEq, Repr

/-- The composer's interval counts of one feed (R77) and the browse builder's (R124). -/
structure ComposeInterval where
  patched    : Word
  lost       : Word
  format     : Word
  backlog    : Word
  browseSkip : Word
  deriving DecidableEq, Repr

/-- Condition of an index entry (R74). -/
inductive EntryCondition where
  | whole | patched | repeated
  deriving DecidableEq, Repr

/-- Lost causes of a REPEAT entry (R58). -/
inductive LostCause where
  | absent | headerless | malformed | format | backlog | noCell
  deriving DecidableEq, Repr

/-- Browse state of an index entry (R76). -/
inductive BrowseMark where
  | none | scheduled | skipped
  deriving DecidableEq, Repr

/-- An index entry (R74). -/
structure IndexEntry where
  ordinal       : Nat
  essenceOffset : Nat
  essenceLength : Nat
  timecode      : Word
  frameCount    : Half
  condition     : EntryCondition
  lost          : Option LostCause
  substituted   : Nat
  filler        : Nat
  suspect       : Bool
  discontinuity : Bool
  audioFilled   : Bool
  browse        : BrowseMark
  slot          : Option Nat
  maxAge        : Nat
  deriving DecidableEq, Repr

/-- A page's accumulator (R93, R98): WARN, ERROR and the condition set, bit n for condition n. -/
structure Accumulator where
  warn  : Bool
  error : Bool
  conds : BitVec 17
  deriving DecidableEq, Repr

/-- A waiting page (R93). -/
structure WaitingPage where
  page    : Nat
  entries : List IndexEntry
  acc     : Accumulator
  deriving DecidableEq, Repr

/-- The page buffer of a take (R93). -/
structure PageBuffer where
  openPage  : Nat
  entries   : List IndexEntry
  captured  : Nat
  owed      : Bool
  acc       : Accumulator
  waiting   : Option WaitingPage
  finalPage : Option Nat
  deriving DecidableEq, Repr

/-- The take manager's index totals of one take (R105). -/
structure IndexTotals where
  queued   : Word
  rebuilt  : Word
  owed     : Word
  writesOk : Word
  deriving DecidableEq, Repr

/-- Browse status of a take (R110). -/
inductive BrowseStatus where
  | inactive | active | ended
  deriving DecidableEq, Repr

/-- Browse end reasons other than none (R110). -/
inductive BrowseEnd where
  | areaFull | takeEnded
  deriving DecidableEq, Repr

/-- The browse builder's totals of one take (R124). -/
structure BrowseTotals where
  scheduled      : Word
  skippedCollide : Word
  skippedBacklog : Word
  written        : Word
  lostFailed     : Word
  lostTimeout    : Word
  lostReset      : Word
  withdrawn      : Word
  deriving DecidableEq, Repr

/-- The browse state of one take (R110). `outstanding` is the ordinal and slot index of its one browse write;
busy is set exactly while there is one (R120 to R122), so busy is `outstanding.isSome`. -/
structure BrowseState where
  status      : BrowseStatus
  reason      : Option BrowseEnd
  slotBytes   : Nat
  slotCount   : Nat
  outstanding : Option (Nat × Nat)
  totals      : BrowseTotals
  deriving DecidableEq, Repr

/-- A take record (R80), with its composition state, page buffer, publish timer (R96: its expiry, or stopped),
coverage (R100), essence pending list (R101), published frontier (R102), index totals and browse state. The
contexts a take holds are those whose holder is its feed (R108). -/
structure Take where
  state     : TakeState
  endCause  : Option EndCause
  id        : Word
  profile   : Profile
  divisor   : Nat
  essence   : Area
  browse    : Area
  index     : Area
  comp      : Composition
  page      : PageBuffer
  timer     : Option Nat
  covered   : Nat
  completed : List (Nat × Nat)
  unwritten : List Nat
  frontier  : Nat
  totals    : IndexTotals
  copy      : BrowseState
  deriving DecidableEq, Repr

/-! ## Browse contexts -/

/-- One browse context (R108): the feed that holds it and its place in that take's set, or free. -/
abbrev Context := Option (FeedNo × Nat)

/-- The pool of 16 browse contexts (R108); byte `b` of context `c` is at address 49,152 × c + b. -/
structure ContextPool where
  contexts : Vector Context 16
  bytes    : List Host.Cell
  deriving DecidableEq, Repr

/-! ## Health monitor -/

/-- A condition's select (R156). -/
inductive Select where
  | dynamic | latched
  deriving DecidableEq, Repr

/-- A condition's action set (R156). -/
structure Actions where
  notice  : Bool
  suspect : Bool
  warn    : Bool
  error   : Bool
  drop    : Bool
  deriving DecidableEq, Repr

/-- One condition of one feed (R149, R156). -/
structure Condition where
  run     : Nat
  dynamic : Bool
  latched : Bool
  last    : Word
  select  : Select
  actions : Actions
  deriving DecidableEq, Repr

/-- The monitor's state of one feed (R149, R150). -/
structure Health where
  conds     : Vector Condition 17
  loss      : Nat
  late      : Nat
  patch     : Nat
  autoclear : Bool
  evaluated : Bool
  deriving DecidableEq, Repr

/-- The monitor's device state (R149, R150, R151): the latest interval end, and the one the open interval
ends at. -/
structure MonitorDevice where
  interval : Nat
  filter   : Nat
  latest   : Option Nat
  nextEnd  : Nat
  deriving DecidableEq, Repr

/-- Everything kept for one feed. -/
structure Feed where
  entry    : FeedEntry
  intake   : FeedIntake
  window   : Window
  interval : ComposeInterval
  take     : Take
  health   : Health
  deriving DecidableEq, Repr

/-! ## Store port -/

/-- Store request classes, highest priority first (R133). -/
inductive StoreClass where
  | index | essence | browse
  deriving DecidableEq, Repr

/-- An element of a gather list (R72). -/
inductive Gather where
  | cells  (p : Piece)
  | filler (slice length : Nat)
  | zeros  (length : Nat)
  deriving DecidableEq, Repr

/-- What a store request writes (R128): its subject and its data. -/
inductive Subject where
  /-- An index page snapshot: page, entry count, snapshot cell. -/
  | index (page count cell : Nat)
  /-- A recorded frame: ordinal and gather list. -/
  | essence (ordinal : Nat) (gather : List Gather)
  /-- A browse slot: ordinal and slot index. -/
  | browse (ordinal slot : Nat)
  deriving DecidableEq, Repr

/-- A store request (R128), queued or bound to a tag. `holdings` are the cells it holds, in drop order (R44). -/
structure Request where
  take     : FeedNo
  subject  : Subject
  address  : Nat
  length   : Nat
  holdings : List Nat
  deriving DecidableEq, Repr

/-- A request that has been issued (R128, R135). -/
structure Issued where
  request  : Request
  epoch    : BitVec 2
  issued   : Nat
  deadline : Nat
  deriving DecidableEq, Repr

/-- A tag of a lane (R130). -/
inductive Tag where
  | free
  | inFlight (r : Issued)
  | quarantined (r : Issued)
  deriving DecidableEq, Repr

/-- One lane: its tags (R130) and its counts (R146). -/
structure Lane where
  tags    : Vector Tag 8
  issued  : Word
  ok      : Word
  failed  : Word
  timeout : Word
  late    : Word
  deriving DecidableEq, Repr

/-- The store floor (R131). -/
inductive Floor where
  | all | noBrowse | indexOnly
  deriving DecidableEq, Repr

/-- The settings of the store port (R131); a lane set has bit n for lane n. -/
structure StoreSettings where
  indexLanes   : BitVec 2
  essenceLanes : BitVec 2
  browseLanes  : BitVec 2
  floor        : Floor
  highWater    : Nat
  timeout      : Nat
  deriving DecidableEq, Repr

/-- Settling after a reset (R145): its end is not fixed before STARTED is set. -/
inductive Settling where
  | starting
  | until (t : Nat)
  | ended
  deriving DecidableEq, Repr

/-- The store port (R127 to R148). -/
structure StorePort where
  indexQ           : List Request
  essenceQ         : List Request
  browseQ          : List Request
  lanes            : Vector Lane 2
  epoch            : BitVec 2
  settings         : StoreSettings
  settling         : Settling
  stray            : Word
  withdrawnIndex   : Word
  withdrawnEssence : Word
  withdrawnBrowse  : Word
  resets           : Word
  resetRequests    : Word
  deriving DecidableEq, Repr

/-- A message sent on a lane of the store link: the bytes of a WRITE (R126, R190). -/
structure LaneMessage where
  lane  : LaneNo
  bytes : Bytes
  deriving DecidableEq, Repr

/-! ## Control link -/

/-- Outcomes, in the order that codes them (R175, R191). -/
inductive ReplyCode where
  | done | pending | refusedState | refusedBusy | badArgument | noResource | unknownRequest | notStarted
  deriving DecidableEq, Repr

/-- A reply frame but for its status summary (R167, R191). -/
structure Reply where
  code    : Byte
  outcome : ReplyCode
  clamped : Bool
  more    : Bool
  body    : Bytes
  deriving DecidableEq, Repr

/-- A notice set: one mask of 19 notice numbers per feed and one of the 4 device notices (R177, R179). -/
structure NoticeSet where
  feeds  : Vector (BitVec 19) 8
  device : BitVec 4
  deriving DecidableEq, Repr

/-- The control link (R167). READY is active exactly while `processing` is `none`; ATTN is active exactly
while a notice is both in `pending` and in `enables` (R178). -/
structure ControlLink where
  reply      : Reply
  processing : Option Bytes
  parts      : List Reply
  resetSeen  : Bool
  pending    : NoticeSet
  enables    : NoticeSet
  early      : Half
  short      : Half
  deriving DecidableEq, Repr

/-! ## Settings store -/

/-- The three regions of the settings flash (R182). -/
inductive Region where
  | feeds | monitor | store
  deriving DecidableEq, Repr

/-- Region status (R189). -/
inductive RegionStatus where
  | notRead | loaded | defaulted
  deriving DecidableEq, Repr

/-- Causes of a reset (R180). -/
inductive ResetCause where
  | powerOn | resetLine | resetRequest
  deriving DecidableEq, Repr

/-- A save in flight (R186, R189): the snapshot, the region being written, the step at which the save stands in
it (0 erasing, 1 programming, 2 comparing) and whether every region so far was verified. -/
structure Save where
  feeds    : Bytes
  monitor  : Bytes
  store    : Bytes
  region   : Region
  step     : Fin 3
  verified : Bool
  deriving DecidableEq, Repr

/-- The settings store (R189) and the attached flash (R182). SAVE_BUSY is set exactly while a save is in
flight. -/
structure SettingsStore where
  started : Bool
  cause   : ResetCause
  feeds   : RegionStatus
  monitor : RegionStatus
  store   : RegionStatus
  save    : Option Save
  flash   : List Host.Cell
  deriving DecidableEq, Repr

/-! ## The part -/

/-- The MODEL's own field: what supplies the values the manual leaves open. `lanes` lists lane choices given in
advance (`true` is lane 1); when it is empty, the choice is `Config.laneFirst count` (R133; assumption 4). -/
structure FreeValues where
  count : Nat
  lanes : List Bool
  deriving DecidableEq, Repr

/-- What the part sent out during the latest command: WRITE messages in the order sent (R126), and the bytes
clocked out of the control link (R168). -/
structure Output where
  writes : List LaneMessage
  miso   : Bytes
  deriving DecidableEq, Repr

/-- The whole part. `pending` is the queue of waiting commands, first in, first out. -/
structure State where
  time     : Nat
  line     : LinePort
  intake   : IntakeCounts
  feeds    : Vector Feed 8
  cells    : CellMem
  pool     : ContextPool
  store    : StorePort
  monitor  : MonitorDevice
  link     : ControlLink
  settings : SettingsStore
  free     : FreeValues
  out      : Output
  pending  : List Instr
  deriving DecidableEq, Repr

/-! ## After reset -/

/-- R4. -/
def FeedEntry.reset : FeedEntry :=
  { tag := 0, enable := false, paths := 0b1111, depth := 400, jump := 64, publish := 200 }

/-- R9. -/
def PathAcc.reset : PathAcc :=
  { last := none, intReceived := 0, intExpected := 0, received := 0, expected := 0, dropped := 0 }

/-- R15. -/
def FeedIntake.reset : FeedIntake :=
  { noTake := 0, pathDisabled := 0, paths := Vector.replicate 4 PathAcc.reset }

/-- R34. -/
def WindowInterval.reset : WindowInterval := { late := 0, overrun := 0, discontinuity := 0, cellShort := 0 }

/-- R35. -/
def WindowTotals.reset : WindowTotals :=
  { late := 0, duplicate := 0, overlap := 0, mismatch := 0, cellShort := 0, overrun := 0, discontinuity := 0,
    complete := 0, partials := 0, absent := 0, discarded := 0 }

/-- R16, R41: after reset and at ARM TAKE acceptance. -/
def Window.reset : Window :=
  { base := none, records := [], mark := false, interval := WindowInterval.reset, totals := WindowTotals.reset }

/-- R78. -/
def ComposeTotals.reset : ComposeTotals :=
  { whole := 0, patched := 0, absent := 0, headerless := 0, malformed := 0, format := 0, backlog := 0, noCell := 0,
    substituted := 0, filler := 0, missing := 0, damaged := 0, split := 0, audioFilled := 0, essenceBytes := 0 }

/-- R57, R79. -/
def Composition.reset : Composition :=
  { raster := none, rate := none, nextOrdinal := 0, nextOffset := 0, lastRef := none, sources := [],
    totals := ComposeTotals.reset }

/-- R77, R124. -/
def ComposeInterval.reset : ComposeInterval := { patched := 0, lost := 0, format := 0, backlog := 0, browseSkip := 0 }

/-- A clear accumulator (R93). -/
def Accumulator.clear : Accumulator := { warn := false, error := false, conds := 0 }

/-- R93. -/
def PageBuffer.reset : PageBuffer :=
  { openPage := 0, entries := [], captured := 0, owed := false, acc := Accumulator.clear, waiting := none,
    finalPage := none }

/-- R105. -/
def IndexTotals.reset : IndexTotals := { queued := 0, rebuilt := 0, owed := 0, writesOk := 0 }

/-- R124. -/
def BrowseTotals.reset : BrowseTotals :=
  { scheduled := 0, skippedCollide := 0, skippedBacklog := 0, written := 0, lostFailed := 0, lostTimeout := 0,
    lostReset := 0, withdrawn := 0 }

/-- R110, R125. -/
def BrowseState.reset : BrowseState :=
  { status := .inactive, reason := none, slotBytes := 0, slotCount := 0, outstanding := none,
    totals := BrowseTotals.reset }

/-- R80, R106. -/
def Take.reset : Take :=
  { state := .idle, endCause := none, id := 0, profile := .none, divisor := 1, essence := ⟨0, 0⟩, browse := ⟨0, 0⟩,
    index := ⟨0, 0⟩, comp := Composition.reset, page := PageBuffer.reset, timer := none, covered := 0,
    completed := [], unwritten := [], frontier := 0, totals := IndexTotals.reset, copy := BrowseState.reset }

/-- R156: the default select and action set of condition `n`. -/
def Condition.default (n : Nat) : Condition :=
  { run := 0, dynamic := false, latched := false, last := 0, select := .latched,
    actions := { notice := true, suspect := false, warn := n == 9 || n == 10, error := n == 13 || n == 15 || n == 16,
                 drop := false } }

/-- R150, R156, R165. -/
def Health.reset : Health :=
  { conds := Vector.ofFn fun (i : Fin 17) => Condition.default i.val, loss := 50, late := 8, patch := 1,
    autoclear := true, evaluated := false }

/-- R150, R151, R165. -/
def MonitorDevice.reset : MonitorDevice := { interval := 100, filter := 2, latest := none, nextEnd := 100000 }

/-- Every feed after reset. -/
def Feed.reset : Feed :=
  { entry := FeedEntry.reset, intake := FeedIntake.reset, window := Window.reset, interval := ComposeInterval.reset,
    take := Take.reset, health := Health.reset }

/-- R1, R2, R15. -/
def LinePort.reset : LinePort :=
  { address := 0, udpPort := 5400, accepted := 0, heldOff := 0, corrupt := 0, foreign := 0 }

/-- R42, R56; `bytes` is kept over a reset (R42). -/
def CellMem.reset (bytes : List Host.Cell) : CellMem :=
  { refs := [], free := [(0, Config.cellCount)], freeCount := Config.cellCount, freeLow := Config.cellCount,
    bytes := bytes }

/-- R108, R125; `bytes` is kept over a reset (R125). -/
def ContextPool.reset (bytes : List Host.Cell) : ContextPool :=
  { contexts := Vector.replicate 16 none, bytes := bytes }

/-- R130, R146. -/
def Lane.reset : Lane :=
  { tags := Vector.replicate 8 .free, issued := 0, ok := 0, failed := 0, timeout := 0, late := 0 }

/-- R131. -/
def StoreSettings.reset : StoreSettings :=
  { indexLanes := 0b11, essenceLanes := 0b11, browseLanes := 0b10, floor := .all, highWater := 48, timeout := 2000 }

/-- R148. -/
def StorePort.reset : StorePort :=
  { indexQ := [], essenceQ := [], browseQ := [], lanes := Vector.replicate 2 Lane.reset, epoch := 0,
    settings := StoreSettings.reset, settling := .starting, stray := 0, withdrawnIndex := 0, withdrawnEssence := 0,
    withdrawnBrowse := 0, resets := 0, resetRequests := 0 }

/-- The empty notice set (R177). -/
def NoticeSet.empty : NoticeSet := { feeds := Vector.replicate 8 0, device := 0 }

/-- R178: TAKE_ENDED (17) of every feed and the four device notices. -/
def NoticeSet.defaultEnables : NoticeSet := { feeds := Vector.replicate 8 (1#19 <<< 17), device := 0b1111 }

/-- The code of a reset cause in a HELLO body (R191). -/
def ResetCause.code : ResetCause → Byte
  | .powerOn => 0
  | .resetLine => 1
  | .resetRequest => 2

/-- R171: the reset reply, a HELLO reply as it stands at reset (R180, R191). -/
def Reply.afterReset (cause : ResetCause) : Reply :=
  { code := 0x01, outcome := .done, clamped := false, more := false,
    body := [0x6C, 1, 0, cause.code, 0, 0, 0, 0, 0, 0, 0, 0, 0, 0, 0, 0, 0, 0, 0] }

/-- R167, R171. -/
def ControlLink.reset (cause : ResetCause) : ControlLink :=
  { reply := Reply.afterReset cause, processing := none, parts := [], resetSeen := true, pending := NoticeSet.empty,
    enables := NoticeSet.defaultEnables, early := 0, short := 0 }

/-- R184, R189; the flash is outside the part and keeps what it holds. -/
def SettingsStore.reset (cause : ResetCause) (flash : List Host.Cell) : SettingsStore :=
  { started := false, cause := cause, feeds := .notRead, monitor := .notRead, store := .notRead, save := none,
    flash := flash }

/-- R184: the part right after a reset, with the DRAM bytes, context bytes and flash a reset leaves, the model's
free values and the waiting commands. -/
def State.afterReset (cause : ResetCause) (dram contexts flash : List Host.Cell) (free : FreeValues)
    (pending : List Instr) : State :=
  { time := 0, line := LinePort.reset, intake := { malformed := 0, unclaimed := 0 },
    feeds := Vector.replicate 8 Feed.reset, cells := CellMem.reset dram, pool := ContextPool.reset contexts,
    store := StorePort.reset, monitor := MonitorDevice.reset, link := ControlLink.reset cause,
    settings := SettingsStore.reset cause flash, free := free, out := { writes := [], miso := [] },
    pending := pending }

/-- The machine right after power-on: no byte of DRAM, contexts or flash is listed (assumption 6), the model's
free values start at 0, and no command waits. -/
def State.reset : State := State.afterReset .powerOn [] [] [] { count := 0, lanes := [] } []

end Sys2Proof.Machine
end

