-- ==== Sys2Proof/Machine/Bytes.lean ====
section
/-! DEFINITION. Byte order and fields of records. Every multi-byte field of every record is big-endian
(00_scope, Byte order). -/

namespace Sys2Proof.Machine

/-- The number a big-endian byte string writes. -/
def beNat (bs : Bytes) : Nat := bs.foldl (fun n b => n * 256 + b.toNat) 0

/-- The low `n` bytes of `v`, most significant first. -/
def beBytes (n : Nat) (v : Nat) : Bytes :=
  match n with
  | 0 => []
  | k + 1 => BitVec.ofNat 8 (v / 256 ^ k) :: beBytes k v

/-- `n` bytes of a record from offset `o`. -/
def field (bs : Bytes) (o n : Nat) : Bytes := (bs.drop o).take n

/-- The big-endian number in the `n` bytes at offset `o`; a byte beyond the record's end counts as absent. -/
def fieldNat (bs : Bytes) (o n : Nat) : Nat := beNat (field bs o n)

/-- One byte of a record. -/
def fieldByte (bs : Bytes) (o : Nat) : Byte := (bs.drop o).headD 0

/-- `n` zero bytes. -/
def zeroBytes (n : Nat) : Bytes := List.replicate n 0

/-- A record's bytes cut, or filled with `d`, to exactly `n`. -/
def fitTo (d : Byte) (n : Nat) (bs : Bytes) : Bytes := bs.take n ++ List.replicate (n - bs.length) d

/-- One byte, from a number of range 0..255. -/
def be1 (v : Nat) : Bytes := [BitVec.ofNat 8 v]

/-- Two, four and eight bytes. -/
def be2 (v : Nat) : Bytes := beBytes 2 v
def be4 (v : Nat) : Bytes := beBytes 4 v
def be8 (v : Nat) : Bytes := beBytes 8 v

/-- A 32-bit word's four bytes. -/
def beWord (w : Word) : Bytes := beBytes 4 w.toNat

/-- A flag's byte. -/
def beFlag (b : Bool) : Bytes := [if b then 1 else 0]

/-- A value that may be none, unset or stopped: all-ones in its `n` bytes when it is (R191). -/
def beOpt (n : Nat) : Option Nat → Bytes
  | none => List.replicate n 0xFF
  | some v => beBytes n v

/-- Cuts a list into parts of `n`, the last one holding the remainder; `fuel` bounds their number. -/
def cutParts (n : Nat) : Nat → Bytes → List Bytes
  | 0, _ => []
  | fuel + 1, bs => if bs.length ≤ n then [bs] else bs.take n :: cutParts n fuel (bs.drop n)

end Sys2Proof.Machine
end

