-- ==== Sys2Proof/Machine/Ops.lean ====
section
/-! DEFINITION. The named operations over State: sparse memories, counters, the clock, the cell memory's free
list and reference counts, and access to one feed's records. -/

namespace Sys2Proof.Machine

/-! ## Sparse tables: rising keys, no entry equal to the default -/

/-- What key `a` holds; a key not listed holds `d`. -/
def sparseGet (d : α) : List (Nat × α) → Nat → α
  | [], _ => d
  | (k, v) :: m, a => if k = a then v else sparseGet d m a

/-- `m` with key `a` holding `v`: writing `d` removes the entry. -/
def sparseSet [DecidableEq α] (d : α) : List (Nat × α) → Nat → α → List (Nat × α)
  | [], a, v => if v = d then [] else [(a, v)]
  | (k, w) :: m, a, v =>
    if k < a then (k, w) :: sparseSet d m a v
    else if k = a then (if v = d then m else (a, v) :: m)
    else (if v = d then (k, w) :: m else (a, v) :: (k, w) :: m)

/-- The canonical form: keys strictly rising, no entry equal to what an unlisted key holds. -/
abbrev sparseWf (d : α) (m : List (Nat × α)) : Prop :=
  m.Pairwise (fun x y => x.1 < y.1) ∧ ∀ x ∈ m, x.2 ≠ d

/-- A byte memory is in its canonical form. -/
abbrev Memory.wf (d : Byte) (m : List Host.Cell) : Prop := sparseWf d m

/-- What a byte of the DRAM or of a browse context that nothing has written reads as. DESIGN CHOICE
(assumption 6): no rule lets such a byte be read. -/
abbrev ramByte : Byte := 0

/-- What a byte of the flash that nothing has written reads as: an erased byte (R182). DESIGN CHOICE
(assumption 6). -/
abbrev flashByte : Byte := 0xFF

/-- Reads `n` bytes from address `a` of entries none of which lies below `a`. -/
def readFrom (d : Byte) : List Host.Cell → Nat → Nat → Bytes
  | _, _, 0 => []
  | [], a, n + 1 => d :: readFrom d [] (a + 1) n
  | (k, v) :: m, a, n + 1 =>
    if k = a then v :: readFrom d m (a + 1) n else d :: readFrom d ((k, v) :: m) (a + 1) n

/-- The `n` bytes at address `a`. -/
def Memory.read (d : Byte) (m : List Host.Cell) (a n : Nat) : Bytes :=
  readFrom d (m.dropWhile fun c => decide (c.1 < a)) a n

/-- The entries that hold `bs` from address `a`. -/
def entriesOf (d : Byte) : Nat → Bytes → List Host.Cell
  | _, [] => []
  | a, b :: bs => if b = d then entriesOf d (a + 1) bs else (a, b) :: entriesOf d (a + 1) bs

/-- `m` with `bs` stored from address `a`. -/
def Memory.write (d : Byte) (m : List Host.Cell) (a : Nat) (bs : Bytes) : List Host.Cell :=
  (m.takeWhile fun c => decide (c.1 < a)) ++ entriesOf d a bs ++
    (m.dropWhile fun c => decide (c.1 < a + bs.length))

/-! ## Counts -/

/-- A count that saturates at 4,294,967,295. -/
def satAdd (c : Word) (n : Nat) : Word := BitVec.ofNat 32 (min (c.toNat + n) 4294967295)

/-- A total that wraps to 0 after 4,294,967,295, increased by `n`. -/
def wrapAdd (c : Word) (n : Nat) : Word := c + BitVec.ofNat 32 n

/-- A value clamped to a..b (00_scope, Clamped). -/
def clamp (a b v : Nat) : Nat := if v < a then a else if b < v then b else v

/-- The modular distance from `a` to `b` (00_scope, Modular distance). -/
def distance (a b : Half) : Nat := (b - a).toNat

/-! ## The clock and the outputs -/

/-- A command is taken at station time `t`, or now when `t` has passed (assumption 1); what the latest command
sent out is no longer on the wires. -/
def State.start (s : State) (t : Nat) : State :=
  { s with time := max s.time t, out := { writes := [], miso := [] } }

/-- The clock of an idle part (00_scope, Station time): with no command waiting, station time passes by 1 µs and
nothing is sent. DESIGN CHOICE: assumption 1. -/
def State.tick (s : State) : State := s.start (s.time + 1)

/-! ## One feed's records -/

/-- The records of feed `f`. -/
def State.feed (s : State) (f : FeedNo) : Feed := s.feeds[f]

/-- `s` with the records of feed `f` replaced. -/
def State.setFeed (s : State) (f : FeedNo) (x : Feed) : State := { s with feeds := s.feeds.set f x }

/-- The take of feed `f`. -/
def State.take (s : State) (f : FeedNo) : Take := (s.feed f).take

/-- `s` with the take of feed `f` replaced. -/
def State.setTake (s : State) (f : FeedNo) (t : Take) : State := s.setFeed f { s.feed f with take := t }

/-- The window of feed `f`. -/
def State.window (s : State) (f : FeedNo) : Window := (s.feed f).window

/-- `s` with the window of feed `f` replaced. -/
def State.setWindow (s : State) (f : FeedNo) (w : Window) : State := s.setFeed f { s.feed f with window := w }

/-- The health records of feed `f`. -/
def State.health (s : State) (f : FeedNo) : Health := (s.feed f).health

/-- `s` with the health records of feed `f` replaced. -/
def State.setHealth (s : State) (f : FeedNo) (h : Health) : State := s.setFeed f { s.feed f with health := h }

/-! ## The cell memory -/

/-- The free list, head first, as cell numbers. -/
def freeCells (runs : List (Nat × Nat)) : List Nat := runs.flatMap fun r => List.range' r.1 r.2

/-- Takes the head of the free list. -/
def popFree : List (Nat × Nat) → Option (Nat × List (Nat × Nat))
  | [] => none
  | (_, 0) :: rs => popFree rs
  | (c, n + 1) :: rs => some (c, if n = 0 then rs else (c + 1, n) :: rs)

/-- Puts a cell at the tail of the free list. -/
def pushFree : List (Nat × Nat) → Nat → List (Nat × Nat)
  | [], c => [(c, 1)]
  | [(a, n)], c => if a + n = c then [(a, n + 1)] else [(a, n), (c, 1)]
  | r :: r' :: rs, c => r :: pushFree (r' :: rs) c

/-- The reference count of a cell (R42). -/
def CellMem.count (m : CellMem) (c : Nat) : Nat := sparseGet 0 m.refs c

/-- R43: an acquisition takes the head cell, whose count becomes 1; `none` when the list is empty. -/
def CellMem.acquire (m : CellMem) : Option (Nat × CellMem) :=
  match popFree m.free with
  | none => none
  | some (c, rest) =>
    some (c, { m with
      refs := sparseSet 0 m.refs c 1
      free := rest
      freeCount := m.freeCount - 1
      freeLow := min m.freeLow (m.freeCount - 1) })

/-- R44: a holding is added to a cell. -/
def CellMem.hold (m : CellMem) (c : Nat) : CellMem := { m with refs := sparseSet 0 m.refs c (m.count c + 1) }

/-- R44: a holding is dropped; a cell whose count reaches 0 joins the tail of the free list. -/
def CellMem.drop (m : CellMem) (c : Nat) : CellMem :=
  match m.count c with
  | 0 => m
  | 1 => { m with refs := sparseSet 0 m.refs c 0, free := pushFree m.free c, freeCount := m.freeCount + 1 }
  | n + 2 => { m with refs := sparseSet 0 m.refs c (n + 1) }

/-- Holdings added, in order. -/
def CellMem.holdAll (m : CellMem) (cs : List Nat) : CellMem := cs.foldl CellMem.hold m

/-- Holdings dropped, in order. -/
def CellMem.dropAll (m : CellMem) (cs : List Nat) : CellMem := cs.foldl CellMem.drop m

/-- Writes bytes into a cell from its byte 0. -/
def CellMem.fill (m : CellMem) (c : Nat) (bs : Bytes) : CellMem :=
  { m with bytes := Memory.write ramByte m.bytes (c * Config.cellBytes) bs }

/-- Reads a range of a cell. -/
def CellMem.read (m : CellMem) (p : Piece) : Bytes :=
  Memory.read ramByte m.bytes (p.cell * Config.cellBytes + p.offset) p.length

/-- `s` with the holdings of `cs` dropped, in order. -/
def State.dropCells (s : State) (cs : List Nat) : State := { s with cells := s.cells.dropAll cs }

/-! ## Browse contexts -/

/-- The contexts feed `f`'s take holds, in position order (R80, R108). -/
def State.heldContexts (s : State) (f : FeedNo) : List (Fin 16) :=
  (List.range 4).filterMap fun p => (List.finRange 16).find? fun c => s.pool.contexts[c] = some (f, p)

/-- R108: freeing a take's contexts frees each of them. -/
def State.freeContexts (s : State) (f : FeedNo) : State :=
  { s with pool := { s.pool with
      contexts := s.pool.contexts.map fun c => if (c.map Prod.fst) = some f then none else c } }

/-- Busy of a take (R110). -/
def BrowseState.busy (b : BrowseState) : Bool := b.outstanding.isSome

/-- R123: a take's contexts are freed when its browse status is ENDED and its busy is clear. -/
def State.freeEnded (s : State) (f : FeedNo) : State :=
  if (s.take f).copy.status = .ended ∧ (s.take f).copy.busy = false then s.freeContexts f else s

/-- Busy and the outstanding write clear, and the contexts are freed if browse has ended (R121 to R123). -/
def State.clearBusy (s : State) (f : FeedNo) : State :=
  (s.setTake f { s.take f with copy := { (s.take f).copy with outstanding := none } }).freeEnded f

/-- R112 case 2, R123: an ACTIVE browse status becomes ENDED with this reason; an ENDED one keeps its own. -/
def State.endBrowse (s : State) (f : FeedNo) (r : BrowseEnd) : State :=
  if (s.take f).copy.status = .active then
    (s.setTake f { s.take f with copy := { (s.take f).copy with status := .ended, reason := some r } }).freeEnded f
  else s

/-! ## Slice source tables -/

/-- The cells a slice source table names, in ascending slice number and piece order (R54). -/
def sourceCells (sources : List (Option SourceEntry)) : List Nat :=
  sources.flatMap fun e => match e with | none => [] | some e => e.pieces.map (·.cell)

/-- R54: every entry of the take's table becomes empty and every piece's holding is dropped. -/
def State.emptySources (s : State) (f : FeedNo) : State :=
  let t := s.take f
  (s.setTake f { t with comp := { t.comp with sources := t.comp.sources.map fun _ => none } }).dropCells
    (sourceCells t.comp.sources)

/-! ## The window's records -/

/-- R24: COMPLETE once every fragment index is held. Fragment indexes are distinct and below the declared count
(R3, R17), so the number held decides. -/
def FrameRecord.complete (r : FrameRecord) : Bool := r.held.length == r.declared

/-- The cells of a record in ascending fragment index (R44). -/
def heldCells (hs : List Held) : List Nat := hs.map (·.cell)

/-- R37, R38: every record is removed without release, its holdings dropped and counted DISCARDED_FRAGMENTS; the
base becomes unset and the mark clears. With no record and no base the deadline timer is stopped. The records are
taken in distance order (DESIGN CHOICE: assumption 28). -/
def State.discardWindow (s : State) (f : FeedNo) : State :=
  let w := s.window f
  let hs := w.records.flatMap (·.held)
  (s.setWindow f { w with
    base := none, records := [], mark := false,
    totals := { w.totals with discarded := wrapAdd w.totals.discarded hs.length } }).dropCells (heldCells hs)

/-! ## Notices -/

/-- A notice of feed `f` becomes pending (R177). -/
def State.raiseFeed (s : State) (f : FeedNo) (n : Nat) : State :=
  { s with link := { s.link with pending := { s.link.pending with
      feeds := s.link.pending.feeds.set f (s.link.pending.feeds[f] ||| (1#19 <<< n)) } } }

/-- A device notice becomes pending (R177). -/
def State.raiseDevice (s : State) (n : Nat) : State :=
  { s with link := { s.link with pending := { s.link.pending with
      device := s.link.pending.device ||| (1#4 <<< n) } } }

/-- Notice numbers (R177). -/
abbrev noticeTakeEnded : Nat := 17
abbrev noticeFrontier : Nat := 18
abbrev noticeSaved : Nat := 0
abbrev noticeSaveFailed : Nat := 1
abbrev noticeStray : Nat := 2
abbrev noticeStalled : Nat := 3

/-! ## Free values -/

/-- The lane whose choice is taken first when both lanes could send (R133, open): the next one given in advance,
or else the open value. Answers the choice and the free values it leaves. -/
def FreeValues.nextLane (v : FreeValues) : Bool × FreeValues :=
  match v.lanes with
  | b :: bs => (b, { v with lanes := bs })
  | [] => (Config.laneFirst v.count, { v with count := v.count + 1 })

end Sys2Proof.Machine
end

