-- ==== Sys2Proof/Machine/Operands.lean ====
section
/-! DEFINITION. Every form in which a command brings operands: Ethernet frames and field packets, the frame
header of a frame unit, request bodies, and the coded values of records. -/

namespace Sys2Proof.Machine

/-! ## Rasters and profiles -/

/-- The raster a code names (R50, R61). -/
def Raster.ofCode (n : Nat) : Option Raster :=
  if n = 1 then some .r720 else if n = 2 then some .r1080 else if n = 3 then some .r2160 else none

/-- The code of a raster (R190). -/
def Raster.code : Raster → Nat
  | .r720 => 1
  | .r1080 => 2
  | .r2160 => 3

/-- Slices of a frame (R50, R61). -/
def Raster.slices : Raster → Nat
  | .r720 => 45
  | .r1080 => 68
  | .r2160 => 135

/-- Macroblocks of a slice (R115). -/
def Raster.macroblocks : Raster → Nat
  | .r720 => 80
  | .r1080 => 120
  | .r2160 => 240

/-- Block count of a slice (R63). -/
def Raster.blocks (r : Raster) : Nat := 6 * r.macroblocks

/-- Header length (R60). -/
def Raster.headerBytes (r : Raster) : Nat := 32 + 8 * r.slices

/-- Filler length, the shortest valid slice (R63, R64). -/
def Raster.fillerBytes (r : Raster) : Nat := 8 + 2 * r.blocks

/-- The profile a code names (R190). -/
def Profile.ofCode (n : Nat) : Option Profile :=
  if n = 0 then some .none else if n = 1 then some .eighth else if n = 2 then some .sixteenth else Option.none

/-- The code of a profile (R190). -/
def Profile.code : Profile → Nat
  | .none => 0
  | .eighth => 1
  | .sixteenth => 2

/-- Half of a plane's side, rounded up (R117). -/
def halfUp (n : Nat) : Nat := (n + 1) / 2

/-- Luma width and height (R107). -/
def lumaSize (r : Raster) : Profile → Nat × Nat
  | .none => (0, 0)
  | .eighth => (2 * r.macroblocks, 2 * r.slices)
  | .sixteenth => (halfUp (2 * r.macroblocks), halfUp (2 * r.slices))

/-- Width and height of each chroma plane (R107). -/
def chromaSize (r : Raster) : Profile → Nat × Nat
  | .none => (0, 0)
  | .eighth => (r.macroblocks, r.slices)
  | .sixteenth => (halfUp r.macroblocks, halfUp r.slices)

/-- Pixel bytes of a slot (R107). -/
def pixelBytes (r : Raster) (p : Profile) : Nat :=
  (lumaSize r p).1 * (lumaSize r p).2 + 2 * ((chromaSize r p).1 * (chromaSize r p).2)

/-- ceil(n / m). -/
def ceilDiv (n m : Nat) : Nat := (n + m - 1) / m

/-- Slot bytes S; 0 for profile NONE (R107, R110). -/
def slotBytes (r : Raster) : Profile → Nat
  | .none => 0
  | p => ceilDiv (pixelBytes r p + 64) 512 * 512

/-- Contexts a take needs (R107). -/
def contextsNeeded (r : Raster) : Profile → Nat
  | .none => 0
  | p => ceilDiv (pixelBytes r p + 64) Config.contextBytes

/-! ## Codes of the other named values -/

/-- R190: take states are coded by their position. -/
def TakeState.code : TakeState → Nat
  | .idle => 0
  | .armed => 1
  | .recording => 2
  | .draining => 3
  | .closed => 4
  | .aborting => 5
  | .aborted => 6
  | .faulted => 7

/-- R80, R190: coded by their position in R80's list, where none stands first. -/
def EndCause.code : EndCause → Nat
  | .stopped => 1
  | .essenceFull => 2
  | .indexFull => 3
  | .aborted => 4
  | .essenceFailed => 5
  | .indexFailed => 6
  | .storeReset => 7

/-- R190. -/
def EntryCondition.code : EntryCondition → Nat
  | .whole => 0
  | .patched => 1
  | .repeated => 2

/-- R190; no lost cause is coded 0. -/
def LostCause.code : LostCause → Nat
  | .absent => 1
  | .headerless => 2
  | .malformed => 3
  | .format => 4
  | .backlog => 5
  | .noCell => 6

/-- R190. -/
def BrowseMark.code : BrowseMark → Nat
  | .none => 0
  | .scheduled => 1
  | .skipped => 2

/-- R110, R190. -/
def BrowseStatus.code : BrowseStatus → Nat
  | .inactive => 0
  | .active => 1
  | .ended => 2

/-- R110, R190: coded by their position in R110's list, where none stands first. -/
def BrowseEnd.code : BrowseEnd → Nat
  | .areaFull => 1
  | .takeEnded => 2

/-- R191. -/
def StoreClass.code : StoreClass → Nat
  | .index => 0
  | .essence => 1
  | .browse => 2

/-- R191. -/
def Floor.code : Floor → Nat
  | .all => 0
  | .noBrowse => 1
  | .indexOnly => 2

/-- The floor a code names (R191). -/
def Floor.ofCode (n : Nat) : Option Floor :=
  if n = 0 then some .all else if n = 1 then some .noBrowse else if n = 2 then some .indexOnly else none

/-- R191. -/
def RegionStatus.code : RegionStatus → Nat
  | .notRead => 0
  | .loaded => 1
  | .defaulted => 2

/-- R191. -/
def ReplyCode.code : ReplyCode → Nat
  | .done => 0
  | .pending => 1
  | .refusedState => 2
  | .refusedBusy => 3
  | .badArgument => 4
  | .noResource => 5
  | .unknownRequest => 6
  | .notStarted => 7

/-- R191. -/
def Select.code : Select → Nat
  | .dynamic => 0
  | .latched => 1

/-! ## Ethernet frames (R1) -/

/-- One bit of the Ethernet frame check sequence. PRESUMED (assumption 10): the published CRC-32. -/
def crcBit (c : Nat) : Nat := if c % 2 = 1 then (c / 2) ^^^ 0xEDB88320 else c / 2

/-- One byte of the frame check sequence. -/
def crcByte (c : Nat) (b : Byte) : Nat :=
  crcBit (crcBit (crcBit (crcBit (crcBit (crcBit (crcBit (crcBit (c ^^^ b.toNat))))))))

/-- The frame check sequence of a byte string, as the four bytes that follow it on the line. -/
def frameCheck (bs : Bytes) : Bytes :=
  let c := (bs.foldl crcByte 0xFFFFFFFF) ^^^ 0xFFFFFFFF
  (beBytes 4 c).reverse

/-- The sum of a byte string's 16-bit words; an odd last byte is followed by a zero byte. -/
def wordSum : Bytes → Nat
  | [] => 0
  | [a] => a.toNat * 256
  | a :: b :: bs => a.toNat * 256 + b.toNat + wordSum bs

/-- A one's complement checksum over words of this sum is right. -/
def sumRight (n : Nat) : Bool :=
  let once := n % 65536 + n / 65536
  (once % 65536 + once / 65536) == 65535

/-- What the line port makes of a frame once start-up has finished (R1 tests 2 and 3). -/
inductive Verdict where
  | corrupt
  | foreign
  | accepted (payload : Bytes)
  deriving DecidableEq, Repr

/-- The EtherType is IPv4: the two bytes after the source address are 0x0800. -/
def isIPv4 (body : Bytes) : Bool := field body 12 2 == [0x08, 0x00]

/-- The IPv4 header length in bytes. -/
def ipHeaderBytes (ip : Bytes) : Nat := 4 * ((fieldByte ip 0).toNat % 16)

/-- The datagram's bytes after its IPv4 header, as its total length gives them. -/
def ipPayload (ip : Bytes) : Bytes := (ip.take (fieldNat ip 2 2)).drop (ipHeaderBytes ip)

/-- The datagram is UDP. -/
def isUdp (ip : Bytes) : Bool := fieldByte ip 9 == 17

/-- The IPv4 part of test 2 (R1): the header length, the total length and the header checksum are right. A header that
runs past the frame's end is not right (DESIGN CHOICE: assumption 10). -/
def ipSound (ip : Bytes) : Bool :=
  decide (20 ≤ ip.length) && decide (20 ≤ ipHeaderBytes ip) && decide (ipHeaderBytes ip ≤ ip.length) &&
  decide (fieldNat ip 2 2 ≤ ip.length) && sumRight (wordSum (ip.take (ipHeaderBytes ip)))

/-- The UDP part of test 2 (R1): the length field equals the IPv4 payload length, and the checksum is zero or
right over the pseudo-header. -/
def udpSound (ip : Bytes) : Bool :=
  let udp := ipPayload ip
  decide (8 ≤ udp.length) && decide (fieldNat udp 4 2 = udp.length) &&
  (decide (fieldNat udp 6 2 = 0) ||
    sumRight (wordSum (field ip 12 8) + 17 + udp.length + wordSum udp))

/-- The datagram is an IPv4 fragment: more-fragments, or a non-zero fragment offset (R1 test 3). -/
def isIpFragment (ip : Bytes) : Bool := decide (fieldNat ip 6 2 % 16384 ≠ 0)

/-- Tests 2 and 3 of R1, in table order, against the receive address and the UDP port number. A frame too short for an
Ethernet header carries no IPv4 datagram (DESIGN CHOICE: assumption 10). -/
def judgeFrame (address : Word) (port : Nat) (frame : Bytes) : Verdict :=
  let body := frame.take (frame.length - 4)
  let ip := body.drop 14
  if frame.length < 4 ∨ frame.drop (frame.length - 4) ≠ frameCheck body then .corrupt
  else if isIPv4 body && !(ipSound ip && (!isUdp ip || udpSound ip)) then .corrupt
  else if !isIPv4 body || !isUdp ip || isIpFragment ip ||
      (address != 0 && fieldNat ip 16 4 != address.toNat) || fieldNat (ipPayload ip) 2 2 != port then .foreign
  else .accepted ((ipPayload ip).drop 8)

/-! ## Field packets (R3) -/

/-- A field packet that passed R3. -/
structure Packet where
  path    : Fin 4
  tag     : Word
  seq     : Half
  frame   : Half
  index   : Nat
  count   : Nat
  offset  : Nat
  payload : Bytes
  deriving DecidableEq, Repr

/-- R3: every test of the table; `none` is MALFORMED. -/
def parsePacket (u : Bytes) : Option Packet :=
  let payload := u.drop 20
  let index := fieldNat u 12 2
  let count := fieldNat u 14 2
  let offset := fieldNat u 16 4
  if h : (fieldByte u 3).toNat < 4 then
    if 21 ≤ u.length ∧ u.length ≤ 1420 ∧ fieldNat u 0 2 = 0xA5C3 ∧ fieldNat u 2 1 = 1 ∧
        1 ≤ count ∧ count ≤ 1024 ∧ index < count ∧ (index = 0 → offset = 0) ∧
        offset + payload.length ≤ Config.maxFrame then
      some { path := ⟨(fieldByte u 3).toNat, h⟩, tag := BitVec.ofNat 32 (fieldNat u 4 4),
             seq := BitVec.ofNat 16 (fieldNat u 8 2), frame := BitVec.ofNat 16 (fieldNat u 10 2),
             index := index, count := count, offset := offset, payload := payload }
    else none
  else none

/-- What intake hands the window unit (R14). -/
structure Fragment where
  path    : Fin 4
  frame   : Half
  index   : Nat
  count   : Nat
  offset  : Nat
  payload : Bytes
  arrival : Nat
  deriving DecidableEq, Repr

/-! ## The frame header of a frame unit (R60, R61) -/

/-- The fields of a valid frame header; `slices` holds each directory entry's offset and length. -/
structure FrameHeader where
  raster      : Raster
  rate        : Byte
  timecode    : Word
  frameLength : Nat
  audioOffset : Nat
  audioLength : Nat
  slices      : List (Nat × Nat)
  deriving DecidableEq, Repr

/-- The slice directory: `n` entries of 8 bytes (R190). -/
def readDirectory : Nat → Bytes → List (Nat × Nat)
  | 0, _ => []
  | n + 1, bs => (fieldNat bs 0 4, fieldNat bs 4 2) :: readDirectory n (bs.drop 8)

/-- Slice order (R61): each entry begins at or after `from`, the end of the one before it. -/
def slicesInOrder (start : Nat) : List (Nat × Nat) → Bool
  | [] => true
  | (o, l) :: rest => decide (start ≤ o) && slicesInOrder (o + l) rest

/-- Two byte ranges, each an offset and a length, share a byte. -/
def rangesShare (o l o' l' : Nat) : Bool := decide (0 < l ∧ 0 < l' ∧ o < o' + l' ∧ o' < o + l)

/-- R61: every check of the table, on fragment 0's payload; `none` is MALFORMED. -/
def parseHeader (bs : Bytes) : Option FrameHeader :=
  if bs.length < 32 then none
  else match Raster.ofCode (fieldNat bs 0 1) with
    | none => none
    | some r =>
      let dir := readDirectory r.slices (bs.drop 32)
      let len := fieldNat bs 8 4
      let ao := fieldNat bs 12 4
      let al := fieldNat bs 16 2
      if fieldNat bs 6 2 = r.slices ∧ r.headerBytes ≤ bs.length ∧ r.headerBytes ≤ len ∧ len ≤ Config.maxFrame ∧
          dir.all (fun e => decide (1 ≤ e.2 ∧ e.2 ≤ 16384)) ∧ slicesInOrder r.headerBytes dir ∧
          dir.all (fun e => decide (e.1 + e.2 ≤ len)) ∧ al ≤ 16384 ∧ ao + al ≤ len ∧ r.headerBytes ≤ ao ∧
          dir.all (fun e => !rangesShare ao al e.1 e.2) then
        some { raster := r, rate := fieldByte bs 1, timecode := BitVec.ofNat 32 (fieldNat bs 2 4), frameLength := len,
               audioOffset := ao, audioLength := al, slices := dir }
      else none

/-! ## Request bodies (R191) -/

/-- The body lengths the request of a code accepts (R191); `none` for a code outside the catalogue (R173). -/
def bodyFits (code : Byte) (n : Nat) : Option Bool :=
  match code.toNat with
  | 0x01 | 0x40 | 0x51 | 0x52 | 0x60 | 0x7F => some (n == 0)
  | 0x11 | 0x12 | 0x21 | 0x22 | 0x23 | 0x25 | 0x32 => some (n == 1)
  | 0x10 => some (n == 13 || n == 19)
  | 0x20 => some (decide (57 ≤ n ∧ n ≤ 61))
  | 0x24 => some (n == 2)
  | 0x30 => some (n == 51)
  | 0x31 => some (n == 18)
  | 0x33 => some (n == 5)
  | 0x41 | 0x42 => some (n == 33)
  | 0x50 => some (n == 7)
  | _ => none

/-- A feed number in a request: below 8. -/
def feedOf (n : Nat) : Option FeedNo := if h : n < 8 then some ⟨n, h⟩ else none

/-- A flag byte: 0 off, 1 on; any other value names nothing. -/
def flagOf (b : Byte) : Option Bool := if b = 0 then some false else if b = 1 then some true else none

/-- The 12 bytes of a feed entry (R191, R192); `none` where a coded value or a set bit names nothing. -/
def parseEntry (bs : Bytes) : Option FeedEntry :=
  match flagOf (fieldByte bs 4) with
  | none => none
  | some en =>
    if fieldNat bs 5 1 < 16 then
      some { tag := BitVec.ofNat 32 (fieldNat bs 0 4), enable := en, paths := BitVec.ofNat 4 (fieldNat bs 5 1),
             depth := fieldNat bs 6 2, jump := fieldNat bs 8 2, publish := fieldNat bs 10 2 }
    else none

/-- The 12 bytes of a feed entry. -/
def FeedEntry.bytes (e : FeedEntry) : Bytes :=
  beWord e.tag ++ beFlag e.enable ++ be1 e.paths.toNat ++ be2 e.depth ++ be2 e.jump ++ be2 e.publish

/-- SET FEED's arguments. -/
structure SetFeedArgs where
  feed  : Nat
  entry : FeedEntry
  line  : Option (Word × Nat)
  deriving DecidableEq, Repr

/-- SET FEED's body (R191). -/
def parseSetFeed (b : Bytes) : Option SetFeedArgs :=
  match parseEntry (field b 1 12) with
  | none => none
  | some e =>
    if b.length = 13 then some { feed := fieldNat b 0 1, entry := e, line := none }
    else if b.length = 19 then
      some { feed := fieldNat b 0 1, entry := e,
             line := some (BitVec.ofNat 32 (fieldNat b 13 4), fieldNat b 17 2) }
    else none

/-- A context choice (R81, R191): AUTO, or a list: the number of contexts its choice byte gives, and their numbers. -/
inductive ContextChoice where
  | auto
  | list (n : Nat) (contexts : List Nat)
  deriving DecidableEq, Repr

/-- ARM TAKE's arguments. -/
structure ArmArgs where
  feed    : Nat
  id      : Word
  raster  : Nat
  profile : Nat
  divisor : Nat
  essence : Area
  browse  : Area
  index   : Area
  choice  : ContextChoice
  deriving DecidableEq, Repr

/-- ARM TAKE's body (R191). A body whose length disagrees with a choice byte of AUTO or 0..4 is refused (R172 step 4). A
choice byte of 5..0xFE is kept: R81 judges the context choice at its order 6 (DEDUCED: assumption 31). -/
def parseArm (b : Bytes) : Option ArmArgs :=
  let c := fieldNat b 56 1
  if c = 0xFF ∧ b.length ≠ 57 ∨ c ≤ 4 ∧ b.length ≠ 57 + c then none
  else
    some
      { feed := fieldNat b 0 1, id := BitVec.ofNat 32 (fieldNat b 1 4), raster := fieldNat b 5 1,
        profile := fieldNat b 6 1, divisor := fieldNat b 7 1,
        essence := ⟨fieldNat b 8 8, fieldNat b 16 8⟩, browse := ⟨fieldNat b 24 8, fieldNat b 32 8⟩,
        index := ⟨fieldNat b 40 8, fieldNat b 48 8⟩,
        choice := if c = 0xFF then .auto else .list c ((b.drop 57).map BitVec.toNat) }

/-- One condition byte (R191): bit 0 the select, bits 1..5 the actions; bits 6 and 7 name nothing. -/
def parseConditionByte (b : Byte) : Option (Select × Actions) :=
  if b.toNat < 64 then
    some (if b.getLsbD 0 then .latched else .dynamic,
      { notice := b.getLsbD 1, suspect := b.getLsbD 2, warn := b.getLsbD 3, error := b.getLsbD 4,
        drop := b.getLsbD 5 })
  else none

/-- An action set's mask, at the bits a condition byte gives it (R191). -/
def Actions.mask (a : Actions) : Nat :=
  (if a.notice then 2 else 0) + (if a.suspect then 4 else 0) + (if a.warn then 8 else 0) +
  (if a.error then 16 else 0) + (if a.drop then 32 else 0)

/-- A condition's byte: its select and action set. -/
def Condition.byte (c : Condition) : Bytes := be1 (c.select.code + c.actions.mask)

/-- The 17 condition bytes of a feed; `none` where one names nothing. -/
def parseConditions (bs : Bytes) : Option (Vector (Select × Actions) 17) :=
  match (bs.take 17).mapM parseConditionByte with
  | none => none
  | some l => if h : l.length = 17 then some ⟨l.toArray, by simpa using h⟩ else none

/-- R157: DROP stands in the action set of a condition numbered 8..16. -/
def dropMisplaced (v : Vector (Select × Actions) 17) : Bool :=
  (v.toList.drop 8).any fun x => x.2.drop

/-- One feed's part of SET MONITOR (R150). -/
structure MonitorFeedArgs where
  loss      : Nat
  late      : Nat
  patch     : Nat
  autoclear : Bool
  deriving DecidableEq, Repr

/-- SET MONITOR's arguments (R150). -/
structure MonitorArgs where
  interval : Nat
  filter   : Nat
  feeds    : Vector MonitorFeedArgs 8
  deriving DecidableEq, Repr

/-- The six bytes of one feed in SET MONITOR (R191). -/
def parseMonitorFeed (bs : Bytes) : Option MonitorFeedArgs :=
  (flagOf (fieldByte bs 5)).map fun a =>
    { loss := fieldNat bs 0 2, late := fieldNat bs 2 2, patch := fieldNat bs 4 1, autoclear := a }

/-- SET MONITOR's body (R191); an autoclear value that names nothing is a structural error. -/
def parseMonitor (b : Bytes) : Option MonitorArgs :=
  match (List.range 8).mapM (fun i => parseMonitorFeed (field b (3 + 6 * i) 6)) with
  | none => none
  | some l =>
    if h : l.length = 8 then
      some { interval := fieldNat b 0 2, filter := fieldNat b 2 1, feeds := ⟨l.toArray, by simpa using h⟩ }
    else none

/-- A notice set's 33 bytes (R191); `none` where a bit names no notice. -/
def parseNotices (bs : Bytes) : Option NoticeSet :=
  if (List.range 8).all (fun i => decide (fieldNat bs (4 * i) 4 < 2 ^ 19)) ∧ fieldNat bs 32 1 < 16 then
    some { feeds := Vector.ofFn fun (i : Fin 8) => BitVec.ofNat 19 (fieldNat bs (4 * i.val) 4),
           device := BitVec.ofNat 4 (fieldNat bs 32 1) }
  else none

/-- A notice set's 33 bytes. -/
def NoticeSet.bytes (n : NoticeSet) : Bytes :=
  (n.feeds.toList.flatMap fun m => be4 m.toNat) ++ be1 n.device.toNat

/-- SET STORE's body (R191); `none` where a lane set is empty or has a bit that names no lane, or the floor code
names nothing. -/
def parseStore (b : Bytes) : Option StoreSettings :=
  match Floor.ofCode (fieldNat b 3 1) with
  | none => none
  | some fl =>
    if (List.range 3).all (fun i => decide (1 ≤ fieldNat b i 1 ∧ fieldNat b i 1 < 4)) then
      some { indexLanes := BitVec.ofNat 2 (fieldNat b 0 1), essenceLanes := BitVec.ofNat 2 (fieldNat b 1 1),
             browseLanes := BitVec.ofNat 2 (fieldNat b 2 1), floor := fl, highWater := fieldNat b 4 1,
             timeout := fieldNat b 5 2 }
    else none

/-- The store settings in SET STORE's encoding (R191). -/
def StoreSettings.bytes (v : StoreSettings) : Bytes :=
  be1 v.indexLanes.toNat ++ be1 v.essenceLanes.toNat ++ be1 v.browseLanes.toNat ++ be1 v.floor.code ++
  be1 v.highWater ++ be2 v.timeout

/-- CLEAR CONDITIONS's condition set (R163, R191); `none` where a bit names no condition. -/
def parseConditionSet (bs : Bytes) : Option (BitVec 17) :=
  if fieldNat bs 0 4 < 2 ^ 17 then some (BitVec.ofNat 17 (fieldNat bs 0 4)) else none

/-- A request frame's code, body length and body (R172, R191). -/
def requestCode (frame : Bytes) : Byte := fieldByte frame 0
def requestLength (frame : Bytes) : Nat := fieldNat frame 1 1
def requestBody (frame : Bytes) : Bytes := field frame 2 (requestLength frame)

end Sys2Proof.Machine
end

