-- ==== Sys2Proof/Machine/Flags.lean ====
section
/-! DEFINITION. Every flag the part computes: condition flags and what acts on them (chapter 8), the lines READY
and ATTN, and the status summary (R176). -/

namespace Sys2Proof.Machine

/-! ## Condition flags -/

/-- The selected flag (R156). -/
def Condition.selected (c : Condition) : Bool :=
  match c.select with
  | .dynamic => c.dynamic
  | .latched => c.latched

/-- The numbers of a feed's conditions that meet `p`, as a set: bit n for condition n. -/
def condSet (h : Health) (p : Condition → Bool) : BitVec 17 :=
  (List.finRange 17).foldl (fun m i => if p h.conds[i] then m ||| (1#17 <<< i.val) else m) 0

/-- R159: some condition holding SUSPECT has its selected flag set. -/
def Health.suspect (h : Health) : Bool := h.conds.toList.any fun c => c.actions.suspect && c.selected

/-- R160: the WARN finding. -/
def Health.warnFinding (h : Health) : BitVec 17 := condSet h fun c => c.actions.warn && c.selected

/-- R160: the ERROR finding. -/
def Health.errorFinding (h : Health) : BitVec 17 := condSet h fun c => c.actions.error && c.selected

/-- R98: a page's accumulator after a snapshot's evaluation. -/
def Accumulator.add (a : Accumulator) (h : Health) : Accumulator :=
  { warn := a.warn || (h.warnFinding != 0), error := a.error || (h.errorFinding != 0),
    conds := a.conds ||| h.warnFinding ||| h.errorFinding }

/-- R161: autoclear clears the latched flags of the conditions holding WARN or ERROR, when it is on. -/
def Health.autoclears (h : Health) : Health :=
  if h.autoclear then
    { h with conds := h.conds.map fun c => if c.actions.warn || c.actions.error then { c with latched := false } else c }
  else h

/-- R163: the latched flags of the named conditions are cleared. -/
def Health.clearLatched (h : Health) (named : BitVec 17) : Health :=
  { h with conds := Vector.ofFn fun (i : Fin 17) =>
      if named.getLsbD i.val then { h.conds[i] with latched := false } else h.conds[i] }

/-- R12: a path is a drop candidate while PATH_LOSS(p) or PATH_SILENT(p) has DROP in its action set and its
selected flag set. -/
def Health.dropCandidate (h : Health) (p : Fin 4) : Bool :=
  let loss := h.conds[p.val]
  let silent := h.conds[4 + p.val]
  (loss.actions.drop && loss.selected) || (silent.actions.drop && silent.selected)

/-- A path is in the feed's path enable set. -/
def FeedEntry.pathEnabled (e : FeedEntry) (p : Fin 4) : Bool := e.paths.getLsbD p.val

/-- R13: the last-path guard keeps path `p`: every enabled path is a candidate and `p` is the lowest-numbered
enabled path. -/
def guardKeeps (e : FeedEntry) (h : Health) (p : Fin 4) : Bool :=
  (List.finRange 4).all (fun q => !e.pathEnabled q || h.dropCandidate q) &&
  e.pathEnabled p && (List.finRange 4).all (fun q => !e.pathEnabled q || decide (p ≤ q))

/-- R13: packets of path `p` are being dropped. A path that is not enabled is never a candidate (R12). -/
def pathDropped (e : FeedEntry) (h : Health) (p : Fin 4) : Bool :=
  e.pathEnabled p && h.dropCandidate p && !guardKeeps e h p

/-! ## Lines and summary flags, computed and not held (assumption 24) -/

/-- READY: active while no request is in processing (R167). -/
def State.ready (s : State) : Bool := s.link.processing.isNone

/-- R178: some notice is both pending and enabled. -/
def NoticeSet.meets (a b : NoticeSet) : Bool :=
  (List.finRange 8).any (fun i => a.feeds[i] &&& b.feeds[i] != 0) || (a.device &&& b.device != 0)

/-- ATTN (R178). -/
def State.attn (s : State) : Bool := s.link.pending.meets s.link.enables

/-- ANY_FAULTED (R92). -/
def State.anyFaulted (s : State) : Bool := s.feeds.toList.any fun x => x.take.state == .faulted

/-- CELL_LOW (R49). -/
def State.cellLow (s : State) : Bool := decide (s.cells.freeCount < Config.cellLowMark)

/-- A tag is quarantined. -/
def Tag.isQuarantined : Tag → Bool
  | .quarantined _ => true
  | _ => false

/-- A tag is free. -/
def Tag.isFree : Tag → Bool
  | .free => true
  | _ => false

/-- A lane is stalled while all 8 of its tags are quarantined (R142). -/
def Lane.stalled (l : Lane) : Bool := l.tags.toList.all Tag.isQuarantined

/-- STORE_STALLED (R142). -/
def State.storeStalled (s : State) : Bool := s.store.lanes.toList.any Lane.stalled

/-- SAVE_BUSY (R186, R187). -/
def State.saveBusy (s : State) : Bool := s.settings.save.isSome

/-- The status summary (R176) with its bits where R191 puts them. -/
def State.summary (s : State) : BitVec 16 :=
  (if s.attn then 1 else 0) + (if s.settings.started then 2 else 0) + (if s.saveBusy then 4 else 0) +
  (if s.anyFaulted then 8 else 0) + (if s.cellLow then 16 else 0) + (if s.storeStalled then 32 else 0) +
  (if s.link.resetSeen then 64 else 0)

end Sys2Proof.Machine
end

