-- ==== Sys2Proof/Machine/Store.lean ====
section
/-! DEFINITION. The store port's shared operations: queues, steering and holds, the arbiters, issue, withdrawal
(R126 to R135, R143). The commands of the family are in Machine/StoreCommands.lean. -/

namespace Sys2Proof.Machine

/-! ## Requests and queues -/

/-- The class of a request (R128). -/
def Request.cls (r : Request) : StoreClass :=
  match r.subject with
  | .index _ _ _ => .index
  | .essence _ _ => .essence
  | .browse _ _ => .browse

/-- The queue of a class (R129). -/
def StorePort.queue (p : StorePort) : StoreClass → List Request
  | .index => p.indexQ
  | .essence => p.essenceQ
  | .browse => p.browseQ

/-- The queue of a class, replaced. -/
def StorePort.setQueue (p : StorePort) (c : StoreClass) (q : List Request) : StorePort :=
  match c with
  | .index => { p with indexQ := q }
  | .essence => { p with essenceQ := q }
  | .browse => { p with browseQ := q }

/-- A class is held back by the store floor (R132). -/
def StorePort.floorHolds (p : StorePort) : StoreClass → Bool
  | .index => false
  | .essence => p.settings.floor == .indexOnly
  | .browse => p.settings.floor != .all

/-- A class is held back by the essence high water (R132). -/
def StorePort.waterHolds (p : StorePort) : StoreClass → Bool
  | .browse => decide (p.settings.highWater ≤ p.essenceQ.length)
  | _ => false

/-- A class is held (R132). -/
def StorePort.held (p : StorePort) (c : StoreClass) : Bool := p.floorHolds c || p.waterHolds c

/-- The lane set of a class (R131). -/
def StorePort.laneSet (p : StorePort) : StoreClass → BitVec 2
  | .index => p.settings.indexLanes
  | .essence => p.settings.essenceLanes
  | .browse => p.settings.browseLanes

/-- The request bound to a tag, if any. -/
def Tag.issued? : Tag → Option Issued
  | .free => none
  | .inFlight r => some r
  | .quarantined r => some r

/-- The requests in flight or quarantined, lane 0 tags 0..7 first, then lane 1. -/
def StorePort.bound (p : StorePort) : List Issued :=
  p.lanes.toList.flatMap fun l => l.tags.toList.filterMap Tag.issued?

/-- The requests in flight. -/
def StorePort.flying (p : StorePort) : List Issued :=
  p.lanes.toList.flatMap fun l => l.tags.toList.filterMap fun t =>
    match t with | .inFlight r => some r | _ => none

/-- A request is the INDEX request of this take for this page. -/
def Request.isPage (r : Request) (f : FeedNo) (page : Nat) : Bool :=
  match r.subject with
  | .index p _ _ => r.take == f && p == page
  | _ => false

/-- R133: an INDEX request waits while a write of the same page of the same take is in flight or quarantined. -/
def StorePort.pageFree (p : StorePort) (r : Request) : Bool :=
  match r.subject with
  | .index page _ _ => p.bound.all fun i => !i.request.isPage r.take page
  | _ => true

/-! ## The arbiters -/

/-- The first entry that meets `p`, and the list without it. -/
def takeFirst (p : α → Bool) : List α → Option (α × List α)
  | [] => none
  | x :: xs => if p x then some (x, xs) else (takeFirst p xs).map fun y => (y.1, x :: y.2)

/-- R133: the oldest eligible request of a class for a lane, and the queue it leaves. -/
def StorePort.eligible (p : StorePort) (lane : LaneNo) (c : StoreClass) : Option (Request × List Request) :=
  if p.held c || !(p.laneSet c).getLsbD lane.val then none else takeFirst p.pageFree (p.queue c)

/-- R133: what a lane's arbiter chooses, INDEX before ESSENCE before BROWSE: the request and the port without it.
A settling port issues nothing (R145). -/
def StorePort.choose (p : StorePort) (lane : LaneNo) : Option (Request × StorePort) :=
  if p.settling ≠ .ended then none
  else match p.eligible lane .index with
    | some (r, q) => some (r, { p with indexQ := q })
    | none => match p.eligible lane .essence with
      | some (r, q) => some (r, { p with essenceQ := q })
      | none => match p.eligible lane .browse with
        | some (r, q) => some (r, { p with browseQ := q })
        | none => none

/-- R135 step 2: the lowest-numbered free tag. -/
def Lane.freeTag (l : Lane) : Option TagNo := (List.finRange 8).find? fun t => l.tags[t].isFree

/-! ## Issue -/

/-- A filler slice's bytes (R72): its header, then block count DC values of 0. -/
def fillerSlice (slice length : Nat) : Bytes :=
  be2 slice ++ [0, 0] ++ be2 ((length - 8) / 2) ++ be2 0 ++ zeroBytes (length - 8)

/-- The bytes of a gather list element (R72). -/
def CellMem.gather (m : CellMem) : Gather → Bytes
  | .cells p => m.read p
  | .filler n l => fillerSlice n l
  | .zeros l => zeroBytes l

/-- The bytes of a request's WRITE, read as it is sent (R128). -/
def State.requestData (s : State) (r : Request) : Bytes :=
  match r.subject with
  | .index _ _ cell => s.cells.read { cell := cell, offset := 0, length := Config.pageBytes }
  | .essence _ g => g.flatMap s.cells.gather
  | .browse _ _ =>
    ((s.heldContexts r.take).flatMap fun c =>
      Memory.read ramByte s.pool.bytes (c.val * Config.contextBytes) Config.contextBytes).take r.length

/-- R190: a WRITE's bytes: epoch, lane, tag, a zero byte, address, length, data. -/
def writeBytes (epoch : BitVec 2) (lane : LaneNo) (tag : TagNo) (r : Request) (data : Bytes) : Bytes :=
  be1 epoch.toNat ++ be1 lane.val ++ be1 tag.val ++ be1 0 ++ be8 r.address ++ be4 r.length ++ data

/-- R135: one lane issues one request, if it has a free tag and its arbiter has a choice. -/
def State.tryIssue (s : State) (lane : LaneNo) : Option State :=
  match s.store.lanes[lane].freeTag, s.store.choose lane with
  | some tag, some (r, port) =>
    let l := port.lanes[lane]
    let bound : Issued :=
      { request := r, epoch := port.epoch, issued := s.time, deadline := s.time + port.settings.timeout * 1000 }
    some { s with
      store := { port with
        lanes := port.lanes.set lane { l with tags := l.tags.set tag (.inFlight bound), issued := wrapAdd l.issued 1 } }
      out := { s.out with
        writes := s.out.writes ++ [{ lane := lane, bytes := writeBytes port.epoch lane tag r (s.requestData r) }] } }
  | _, _ => none

/-- R134: the lanes choose until none has a free tag and an eligible request. Where both could send, the open
choice says which is taken first (R133). At most 16 tags are free, so 16 choices are enough. -/
def arbitrateN : Nat → State → State
  | 0, s => s
  | n + 1, s =>
    match s.tryIssue 0, s.tryIssue 1 with
    | none, none => s
    | some a, none => arbitrateN n a
    | none, some b => arbitrateN n b
    | some a, some b =>
      let c := s.free.nextLane
      arbitrateN n { (if c.1 then b else a) with free := c.2 }

/-- Each lane's arbiter chooses (R134). -/
def State.arbitrate (s : State) : State := arbitrateN 16 s

/-- R129, R134: a request joins the tail of its queue, and the lanes choose. -/
def State.join (s : State) (r : Request) : State :=
  { s with store := s.store.setQueue r.cls (s.store.queue r.cls ++ [r]) }.arbitrate

/-! ## What a take has at the store port -/

/-- Requests of a take in a queue. -/
def queuedOf (f : FeedNo) (q : List Request) : List Request := q.filter fun r => r.take == f

/-- Some request of the take is queued. -/
def StorePort.anyQueued (p : StorePort) (f : FeedNo) : Bool :=
  (p.indexQ ++ p.essenceQ ++ p.browseQ).any fun r => r.take == f

/-- Some request of the take is in flight. -/
def StorePort.anyFlying (p : StorePort) (f : FeedNo) : Bool := p.flying.any fun i => i.request.take == f

/-- Some request of the take is in flight or quarantined. -/
def StorePort.anyBound (p : StorePort) (f : FeedNo) : Bool := p.bound.any fun i => i.request.take == f

/-! ## Withdrawal -/

/-- R143: every queued request of the take leaves its queue, INDEX then ESSENCE then BROWSE, its holdings are
dropped and it is counted; a withdrawn browse write clears busy (R122). The lanes do not choose here: the
caller lets them when its own step is done. -/
def State.withdraw (s : State) (f : FeedNo) : State :=
  let p := s.store
  let wi := queuedOf f p.indexQ
  let we := queuedOf f p.essenceQ
  let wb := queuedOf f p.browseQ
  let s := { s with store := { p with
      indexQ := p.indexQ.filter fun r => r.take != f
      essenceQ := p.essenceQ.filter fun r => r.take != f
      browseQ := p.browseQ.filter fun r => r.take != f
      withdrawnIndex := wrapAdd p.withdrawnIndex wi.length
      withdrawnEssence := wrapAdd p.withdrawnEssence we.length
      withdrawnBrowse := wrapAdd p.withdrawnBrowse wb.length } }
  let s := s.dropCells ((wi ++ we ++ wb).flatMap (·.holdings))
  if wb.isEmpty then s
  else
    let t := s.take f
    (s.setTake f { t with copy := { t.copy with
        totals := { t.copy.totals with withdrawn := wrapAdd t.copy.totals.withdrawn wb.length } } }).clearBusy f

end Sys2Proof.Machine
end

