-- ==== Sys2Proof/Machine/Takes.lean ====
section
/-! DEFINITION. The take manager's shared operations: pages and snapshots (R93 to R98), coverage and the
published frontier (R100 to R102), and the ways a take ends (R86 to R90). The commands of the family are in
Machine/TakeCommands.lean. -/

namespace Sys2Proof.Machine

/-! ## Index pages -/

/-- An index entry's 32 bytes (R190). -/
def IndexEntry.bytes (e : IndexEntry) : Bytes :=
  be4 e.ordinal ++ be8 e.essenceOffset ++ be4 e.essenceLength ++ beWord e.timecode ++ be2 e.frameCount.toNat ++
  be1 e.condition.code ++ be1 ((e.lost.map LostCause.code).getD 0) ++ be1 e.substituted ++ be1 e.filler ++
  be1 ((if e.suspect then 1 else 0) + (if e.discontinuity then 2 else 0) + (if e.audioFilled then 4 else 0) +
       8 * e.browse.code) ++
  beOpt 4 e.slot ++ be1 e.maxAge

/-- A snapshot's 2,048 bytes (R97, R190). -/
def pageImage (t : Take) (page : Nat) (entries : List IndexEntry) (acc : Accumulator) (final : Bool)
    (time : Nat) : Bytes :=
  fitTo 0 Config.pageBytes
    (beWord t.id ++ be4 page ++ be4 (Config.pageEntries * page) ++ be1 entries.length ++
     be1 ((t.comp.raster.map Raster.code).getD 0) ++ [t.comp.rate.getD 0] ++ be1 t.profile.code ++ be1 t.divisor ++
     be1 ((if acc.warn then 1 else 0) + (if acc.error then 2 else 0) + (if final then 4 else 0)) ++
     be4 acc.conds.toNat ++ be8 time ++ zeroBytes 2 ++ entries.flatMap IndexEntry.bytes)

/-- The address of a page (R80). -/
def Take.pageAddress (t : Take) (page : Nat) : Nat := t.index.base + Config.pageBytes * page

/-- Whole pages of the index area (R80). -/
def Take.pageCount (t : Take) : Nat := t.index.length / Config.pageBytes

/-- The take has index work not yet captured (R96). -/
def PageBuffer.uncaptured (b : PageBuffer) : Bool :=
  decide (b.captured < b.entries.length) || b.owed || b.waiting.isSome

/-- Some snapshot is owed (R93). -/
def PageBuffer.anyOwed (b : PageBuffer) : Bool := b.owed || b.waiting.isSome

/-! ## Ends of a take -/

/-- R87, R88, R89: entering CLOSED, ABORTED or FAULTED: the state, the slice source table emptied, TAKE_ENDED
pending. -/
def State.endTake (s : State) (f : FeedNo) (st : TakeState) : State :=
  ((s.setTake f { s.take f with state := st }).emptySources f).raiseFeed f noticeTakeEnded

/-- R87: a DRAINING take with no snapshot owed, nothing queued and nothing in flight enters CLOSED. A failed
write would have faulted the take, so the final page's latest write has then completed OK (DEDUCED: assumption
20). -/
def State.closeCheck (s : State) (f : FeedNo) : State :=
  let t := s.take f
  if t.state = .draining ∧ t.page.anyOwed = false ∧ s.store.anyQueued f = false ∧ s.store.anyFlying f = false then
    s.endTake f .closed
  else s

/-- R88: an ABORTING take with no request in flight enters ABORTED. -/
def State.abortCheck (s : State) (f : FeedNo) : State :=
  if (s.take f).state = .aborting ∧ s.store.anyFlying f = false then s.endTake f .aborted else s

/-- The checks a take makes when one of its requests has finished (R87, R88). -/
def State.finishChecks (s : State) (f : FeedNo) : State := (s.closeCheck f).abortCheck f

/-- R88, R89: every owed snapshot is dropped and the publish timer stops. -/
def State.dropOwed (s : State) (f : FeedNo) : State :=
  let t := s.take f
  s.setTake f { t with timer := none, page := { t.page with owed := false, waiting := none } }

/-- R89: entering FAULTED. The lanes do not choose here: the caller lets them when its own step is done (DEDUCED:
assumption 28). -/
def State.enterFaulted (s : State) (f : FeedNo) (cause : EndCause) : State :=
  let s := s.setTake f { s.take f with state := .faulted, endCause := some cause }
  let s := (s.withdraw f).discardWindow f
  let s := (s.dropOwed f).endTake f .faulted
  s.endBrowse f .takeEnded

/-- R88: entering ABORTING with end cause ABORTED, and ABORTED at once when nothing is in flight. -/
def State.enterAborting (s : State) (f : FeedNo) : State :=
  let s := s.setTake f { s.take f with state := .aborting, endCause := some .aborted }
  let s := (s.withdraw f).discardWindow f
  let s := (s.dropOwed f).endBrowse f .takeEnded
  s.abortCheck f

/-- R89, R138, R139: a take in RECORDING or DRAINING faults when an ESSENCE or INDEX request of it fails. -/
def State.failTake (s : State) (f : FeedNo) (cause : EndCause) : State :=
  if (s.take f).state = .recording ∨ (s.take f).state = .draining then s.enterFaulted f cause else s

/-! ## Snapshots -/

/-- How a snapshot went (R95, R99). -/
inductive SnapResult where
  | new | rebuilt | owed
  deriving DecidableEq, Repr

/-- Which page a trigger reaches. -/
inductive WhichPage where
  | opened | waiting
  deriving DecidableEq, Repr

/-- The page a trigger reaches: its number, entries and accumulator. -/
def PageBuffer.pick (b : PageBuffer) : WhichPage → Option (Nat × List IndexEntry × Accumulator)
  | .opened => some (b.openPage, b.entries, b.acc)
  | .waiting => b.waiting.map fun w => (w.page, w.entries, w.acc)

/-- R96: the publish timer starts, when stopped. -/
def State.startTimer (s : State) (f : FeedNo) : State :=
  let t := s.take f
  match t.timer with
  | some _ => s
  | none => s.setTake f { t with timer := some (s.time + (s.feed f).entry.publish * 1000) }

/-- R95, R105: the snapshot is owed. It acquires nothing and changes no cell, queue or flag; the timer runs. -/
def State.oweSnapshot (s : State) (f : FeedNo) (w : WhichPage) : State :=
  let t := s.take f
  (s.setTake f { t with
      page := (match w with | .opened => { t.page with owed := true } | .waiting => t.page)
      totals := { t.totals with owed := wrapAdd t.totals.owed 1 } }).startTimer f

/-- R95, R96, R98: the page's marks once its snapshot is taken: its owed mark clears, its captured count becomes
its entry count and it keeps its accumulator; a waiting page leaves the buffer; the timer stops when nothing is
left uncaptured. -/
def Take.captured (t : Take) (w : WhichPage) (acc : Accumulator) : Take :=
  let page := match w with
    | .opened => { t.page with owed := false, captured := t.page.entries.length, acc := acc }
    | .waiting => { t.page with waiting := none }
  { t with page := page, timer := if page.uncaptured then t.timer else none }

/-- R98, R161: autoclear after a snapshot's evaluation. -/
def State.autoclear (s : State) (f : FeedNo) : State := s.setHealth f (s.health f).autoclears

/-- R95: an INDEX queue with the queued request of this page carrying `count` entries. -/
def rebuildCount (f : FeedNo) (page count : Nat) (q : List Request) : List Request :=
  q.map fun r => if r.isPage f page then
      match r.subject with
      | .index p _ c => { r with subject := .index p count c }
      | _ => r
    else r

/-- The cell of the queued INDEX request of this page, if one is queued (R95). -/
def queuedCell (f : FeedNo) (page : Nat) (q : List Request) : Option Nat :=
  match q.find? (fun r => r.isPage f page) with
  | some r => (match r.subject with | .index _ _ c => some c | _ => none)
  | none => none

/-- R95 to R98: one page's snapshot at a trigger: rebuilt in the queued request's cell, or built into a new cell
and queued, or left owed. -/
def State.snapshot (s : State) (f : FeedNo) (w : WhichPage) : SnapResult × State :=
  let t := s.take f
  match t.page.pick w with
  | none => (.owed, s)
  | some (page, entries, acc) =>
    let acc := acc.add (s.health f)
    let final := decide (t.state = .draining) && (t.page.finalPage == some page)
    let image := pageImage t page entries acc final s.time
    match queuedCell f page s.store.indexQ with
    | some cell =>
      let t := t.captured w acc
      let s := { s with
        cells := s.cells.fill cell image
        store := { s.store with indexQ := rebuildCount f page entries.length s.store.indexQ } }
      let s := s.setTake f { t with totals := { t.totals with rebuilt := wrapAdd t.totals.rebuilt 1 } }
      (.rebuilt, (s.autoclear f).closeCheck f)
    | none =>
      if Config.indexCapacity ≤ s.store.indexQ.length then (.owed, s.oweSnapshot f w)
      else match s.cells.acquire with
        | none => (.owed, s.oweSnapshot f w)
        | some (cell, cells) =>
          let r : Request :=
            { take := f, subject := .index page entries.length cell, address := t.pageAddress page,
              length := Config.pageBytes, holdings := [cell] }
          let t := t.captured w acc
          let s := { s with cells := cells.fill cell image }
          let s := s.setTake f { t with totals := { t.totals with queued := wrapAdd t.totals.queued 1 } }
          (.new, ((s.autoclear f).join r).closeCheck f)

/-- R94, R95: every owed snapshot is retried, the waiting page before the open page. -/
def State.retryOwed (s : State) (f : FeedNo) : State :=
  let s := if (s.take f).page.waiting.isSome then (s.snapshot f .waiting).2 else s
  if (s.take f).page.owed then (s.snapshot f .opened).2 else s

/-- R95: a trigger of a take in another state takes no snapshot. -/
def TakeState.publishes : TakeState → Bool
  | .recording => true
  | .draining => true
  | _ => false

/-- R95 (b): at the publish timer's expiry the waiting page if owed, then the open page if owed or not all
captured. -/
def State.timerTrigger (s : State) (f : FeedNo) : State :=
  if (s.take f).state.publishes then
    let s := if (s.take f).page.waiting.isSome then (s.snapshot f .waiting).2 else s
    let b := (s.take f).page
    if b.owed || decide (b.captured < b.entries.length) then (s.snapshot f .opened).2 else s
  else s

/-- R86: entering DRAINING, from RECORDING or ARMED. -/
def State.enterDraining (s : State) (f : FeedNo) (cause : EndCause) : State :=
  let t := s.take f
  let s := s.setTake f { t with
      state := .draining, endCause := some cause, timer := none
      page := { t.page with finalPage := some t.page.openPage } }
  let s := s.endBrowse f .takeEnded
  let s := (s.snapshot f .opened).2
  if (s.take f).page.waiting.isSome then (s.snapshot f .waiting).2 else s

/-! ## Entries join the page buffer -/

/-- R94 steps 1 and 3: the entry joins the open page at its position. -/
def PageBuffer.add (b : PageBuffer) (e : IndexEntry) : PageBuffer := { b with entries := b.entries ++ [e] }

/-- R94 step 2: page `p` becomes the open page, holding `e`. -/
def PageBuffer.turn (b : PageBuffer) (p : Nat) (e : IndexEntry) (waiting : Option WaitingPage) : PageBuffer :=
  { b with openPage := p, entries := [e], captured := 0, owed := false, acc := Accumulator.clear, waiting := waiting }

/-- R94 steps 3 to 5, after the entry has joined: the fill trigger, the retries, the timer. DEDUCED: assumptions 11
and 18. -/
def State.afterJoin (s : State) (f : FeedNo) : State :=
  let s := if (s.take f).page.entries.length = Config.pageEntries then (s.snapshot f .opened).2 else s
  (s.retryOwed f).startTimer f

/-- R94: the take manager takes an entry into the page buffer. An entry that finds its open page and a waiting page
both owed faults the take and is discarded with the page buffer (assumption 19). A waiting page stays while the open
page behind it turns (DEDUCED: assumption 32). -/
def State.joinEntry (s : State) (f : FeedNo) (e : IndexEntry) : State :=
  let p := e.ordinal / Config.pageEntries
  if p = (s.take f).page.openPage then
    let t := s.take f
    (s.setTake f { t with page := t.page.add e }).afterJoin f
  else
    let s := if (s.take f).page.owed then s.retryOwed f else s
    let t := s.take f
    if t.page.owed = false then
      (s.setTake f { t with page := t.page.turn p e t.page.waiting }).afterJoin f
    else if t.page.waiting.isNone then
      let w : WaitingPage := { page := t.page.openPage, entries := t.page.entries, acc := t.page.acc }
      (s.setTake f { t with page := t.page.turn p e (some w) }).afterJoin f
    else
      ((s.setTake f { t with page := PageBuffer.reset }).enterFaulted f .indexFailed).arbitrate

/-! ## Coverage and the published frontier -/

/-- R100: while covered-through is a multiple of 63 and the list holds that page, the record is taken up. -/
def takeUp : Nat → Nat → List (Nat × Nat) → Nat × List (Nat × Nat)
  | 0, c, l => (c, l)
  | n + 1, c, l =>
    if c % Config.pageEntries = 0 then
      match l.find? fun r => r.1 == c / Config.pageEntries with
      | some r => takeUp n (Config.pageEntries * r.1 + r.2) (l.filter fun x => x.1 != r.1)
      | none => (c, l)
    else (c, l)

/-- R100: a record of a page ahead of the coverage joins the list in page order, or replaces one of the same page
with a smaller count. -/
def addCompleted (page count : Nat) : List (Nat × Nat) → List (Nat × Nat)
  | [] => [(page, count)]
  | (p, c) :: l =>
    if p < page then (p, c) :: addCompleted page count l
    else if p = page then (p, max c count) :: l
    else (page, count) :: (p, c) :: l

/-- R100: covered-through and the completed page list after an INDEX write of `page` with `count` entries (DEDUCED:
assumption 21). -/
def cover (covered : Nat) (l : List (Nat × Nat)) (page count : Nat) : Nat × List (Nat × Nat) :=
  if Config.pageEntries * page + count ≤ covered then (covered, l)
  else if Config.pageEntries * page ≤ covered then
    let r := takeUp (l.length + 1) (Config.pageEntries * page + count) l
    (r.1, r.2.filter fun x => decide (r.1 < Config.pageEntries * x.1))
  else (covered, addCompleted page count l)

/-- R102: the published frontier of a take's coverage and pending list. -/
def Take.frontierNow (t : Take) : Nat :=
  match t.unwritten with
  | [] => min t.covered t.comp.nextOrdinal
  | k :: _ => min t.covered k

/-- R102: the frontier is worked out again, and FRONTIER becomes pending when it increases. -/
def State.publishFrontier (s : State) (f : FeedNo) : State :=
  let t := s.take f
  let s' := s.setTake f { t with frontier := t.frontierNow }
  if t.frontier < t.frontierNow then s'.raiseFeed f noticeFrontier else s'

end Sys2Proof.Machine
end

