-- ==== Sys2Proof/Machine/Browse.lean ====
section
/-! DEFINITION. The browse builder: the answer to a build request, and the slot built from DC values
(R107 to R120). -/

namespace Sys2Proof.Machine

/-! ## From DC values to samples (R115 to R117) -/

/-- R116: one DC value, of weight `w`, as one EIGHTH sample. -/
def dcSample (w : Nat) (v : BitVec 16) : Byte :=
  let dc := max (-2048) (min 2047 v.toInt)
  let s := 128 + (dc * w + 4) / 8
  BitVec.ofNat 8 (max 0 (min 255 s)).toNat

/-- R115: the weight of a weight code. -/
def weightOf (code : Byte) : Nat := 2 ^ code.toNat

/-- A byte string's 16-bit values, most significant byte first (R115). -/
def halves : Bytes → List (BitVec 16)
  | a :: b :: bs => (a ++ b) :: halves bs
  | _ => []

/-- The six samples of one macroblock, in block order (R115). -/
structure Macroblock where
  y0 : Byte
  y1 : Byte
  y2 : Byte
  y3 : Byte
  cb : Byte
  cr : Byte
  deriving DecidableEq, Repr

/-- A slice's macroblocks, from its samples in DC order (R115). -/
def macroblocks : List Byte → List Macroblock
  | a :: b :: c :: d :: e :: f :: rest => ⟨a, b, c, d, e, f⟩ :: macroblocks rest
  | _ => []

/-- What a build reads of one composed slice (R115): its first bytes, header and DC table, and for a filler slice
none. -/
inductive BuildSlice where
  | read (bytes : Bytes)
  | filler
  deriving DecidableEq, Repr

/-- The macroblocks of one composed slice (R115, R116). -/
def BuildSlice.macroblocks (r : Raster) : BuildSlice → List Macroblock
  | .filler => List.replicate r.macroblocks ⟨128, 128, 128, 128, 128, 128⟩
  | .read bs =>
    Machine.macroblocks ((halves (field bs 8 (2 * r.blocks))).map (dcSample (weightOf (fieldByte bs 2))))

/-- The rows of the three EIGHTH planes (R116). -/
structure Planes where
  luma : List (List Byte)
  cb   : List (List Byte)
  cr   : List (List Byte)
  deriving DecidableEq, Repr

/-- R116: the EIGHTH planes of the slices, top to bottom. -/
def eighthPlanes (r : Raster) (slices : List BuildSlice) : Planes :=
  let mbs := slices.map (BuildSlice.macroblocks r)
  { luma := mbs.flatMap fun row => [row.flatMap fun m => [m.y0, m.y1], row.flatMap fun m => [m.y2, m.y3]]
    cb := mbs.map fun row => row.map (·.cb)
    cr := mbs.map fun row => row.map (·.cr) }

/-- Neighbours in pairs; an odd last one is taken twice (R117). -/
def inPairs : List α → List (α × α)
  | [] => []
  | [a] => [(a, a)]
  | a :: b :: l => (a, b) :: inPairs l

/-- R117: q of the four samples of a 2×2 group. -/
def quad (a b c d : Byte) : Byte := BitVec.ofNat 8 ((a.toNat + b.toNat + c.toNat + d.toNat + 2) / 4)

/-- R117: a SIXTEENTH plane from an EIGHTH plane. -/
def halvePlane (rows : List (List Byte)) : List (List Byte) :=
  (inPairs rows).map fun (top, bottom) =>
    ((inPairs top).zip (inPairs bottom)).map fun (t, b) => quad t.1 t.2 b.1 b.2

/-- The planes of a slot's profile (R116, R117). -/
def planesFor (r : Raster) (p : Profile) (slices : List BuildSlice) : Planes :=
  let e := eighthPlanes r slices
  match p with
  | .sixteenth => { luma := halvePlane e.luma, cb := halvePlane e.cb, cr := halvePlane e.cr }
  | _ => e

/-! ## The slot -/

/-- The 64 bytes of a slot header (R119, R190). -/
def slotHeader (t : Take) (r : Raster) (ordinal slot substituted filler time : Nat) : Bytes :=
  beWord t.id ++ be4 ordinal ++ be4 slot ++ be1 r.code ++ be1 t.profile.code ++
  be2 (lumaSize r t.profile).1 ++ be2 (lumaSize r t.profile).2 ++
  be2 (chromaSize r t.profile).1 ++ be2 (chromaSize r t.profile).2 ++
  be1 substituted ++ be1 filler ++ be8 time ++ zeroBytes 32

/-- R118: the S bytes of a slot: header, luma, Cb, Cr, zero padding. -/
def slotImage (t : Take) (r : Raster) (slices : List BuildSlice) (ordinal slot substituted filler time : Nat) : Bytes :=
  let p := planesFor r t.profile slices
  fitTo 0 t.copy.slotBytes
    (slotHeader t r ordinal slot substituted filler time ++ p.luma.flatten ++ p.cb.flatten ++ p.cr.flatten)

/-- R108: buffer bytes from byte 0 into the contexts, 49,152 bytes to each, in position order. -/
def fillContexts (m : List Host.Cell) : List (Fin 16) → Bytes → List Host.Cell
  | [], _ => m
  | c :: cs, bs =>
    fillContexts (Memory.write ramByte m (c.val * Config.contextBytes) (bs.take Config.contextBytes)) cs
      (bs.drop Config.contextBytes)

/-! ## Answering a build request (R112 to R114, R120) -/

/-- R111: an ordinal is a browse ordinal of the take. -/
def Take.browseOrdinal (t : Take) (k : Nat) : Bool := t.profile != .none && decide (k % t.divisor = 0)

/-- What the builder answers (R112). -/
inductive BuildAnswer where
  | ended | collide | backlog | scheduled
  deriving DecidableEq, Repr

/-- R112: the case that applies to slot index `i`, judged in order. A slot that does not fit is `ended`. -/
def State.buildAnswer (s : State) (f : FeedNo) (i : Nat) : BuildAnswer :=
  let b := (s.take f).copy
  if b.status = .ended then .ended
  else if b.slotCount ≤ i then .ended
  else if b.busy then .collide
  else if s.store.held .browse || decide (Config.browseCapacity ≤ s.store.browseQ.length) then .backlog
  else .scheduled

/-- A take with its browse totals changed. -/
def Take.browseTotals (t : Take) (g : BrowseTotals → BrowseTotals) : Take :=
  { t with copy := { t.copy with totals := g t.copy.totals } }

/-- R124: one more SKIPPED answer of the feed in this interval. -/
def State.countSkip (s : State) (f : FeedNo) : State :=
  let x := s.feed f
  s.setFeed f { x with interval := { x.interval with browseSkip := satAdd x.interval.browseSkip 1 } }

/-- R112 to R120: the build request of browse ordinal `k`: the entry's browse state and slot, and the state the
answer leaves. -/
def State.buildBrowse (s : State) (f : FeedNo) (r : Raster) (slices : List BuildSlice) (k substituted filler : Nat) :
    (BrowseMark × Option Nat) × State :=
  let t := s.take f
  let i := k / t.divisor
  match s.buildAnswer f i with
  | .ended => ((.none, none), s.endBrowse f .areaFull)
  | .collide =>
    ((.skipped, some i),
      (s.setTake f (t.browseTotals fun b => { b with skippedCollide := wrapAdd b.skippedCollide 1 })).countSkip f)
  | .backlog =>
    ((.skipped, some i),
      (s.setTake f (t.browseTotals fun b => { b with skippedBacklog := wrapAdd b.skippedBacklog 1 })).countSkip f)
  | .scheduled =>
    let image := slotImage t r slices k i substituted filler s.time
    let s := { s with pool := { s.pool with bytes := fillContexts s.pool.bytes (s.heldContexts f) image } }
    let t := t.browseTotals fun b => { b with scheduled := wrapAdd b.scheduled 1 }
    let s := s.setTake f { t with copy := { t.copy with outstanding := some (k, i) } }
    let q : Request :=
      { take := f, subject := .browse k i, address := t.browse.base + i * t.copy.slotBytes,
        length := t.copy.slotBytes, holdings := [] }
    ((.scheduled, some i), s.join q)

end Sys2Proof.Machine
end

