-- ==== Sys2Proof/Machine/Compose.lean ====
section
/-! DEFINITION. The composer (chapter 4): the ordered decisions on a released frame, its plan, and what it
commits. -/

namespace Sys2Proof.Machine

/-- Kinds of a release (R28). -/
inductive Kind where
  | complete | partially | absent
  deriving DecidableEq, Repr

/-- A released frame (R28): `declared` is the record's declared fragment count, none for an absent frame, and `time`
the release time. -/
structure Released where
  frame    : Half
  kind     : Kind
  declared : Option Nat
  held     : List Held
  mark     : Bool
  time     : Nat
  deriving DecidableEq, Repr

/-! ## Reading ranges of the frame unit -/

/-- A list with `h` put before the first entry whose byte range begins after it. -/
def insertByOffset (h : Held) : List Held → List Held
  | [] => [h]
  | x :: xs => if h.offset < x.offset then h :: x :: xs else x :: insertByOffset h xs

/-- R51: the held fragments that share a byte with the range, in ascending byte order. -/
def sharing (hs : List Held) (o l : Nat) : List Held :=
  (hs.filter fun h => rangesShare h.offset h.length o l).foldl (fun acc h => insertByOffset h acc) []

/-- R51: the piece a fragment gives of a range. -/
def pieceOf (o l : Nat) (h : Held) : Piece :=
  let first := max o h.offset
  { cell := h.cell, offset := first - h.offset, length := min (o + l) (h.offset + h.length) - first }

/-- R51: the pieces of a range. -/
def piecesOf (hs : List Held) (o l : Nat) : List Piece := (sharing hs o l).map (pieceOf o l)

/-- How far the fragments, in ascending byte order, cover without a gap from `at`. -/
def reach (at_ : Nat) : List Held → Nat
  | [] => at_
  | h :: hs => if h.offset ≤ at_ then reach (max at_ (h.offset + h.length)) hs else at_

/-- R63: the held fragments include every byte of the range. -/
def covered (hs : List Held) (o l : Nat) : Bool := decide (o + l ≤ reach o (sharing hs o l))

/-- The bytes of pieces, read in order. -/
def CellMem.readPieces (m : CellMem) (ps : List Piece) : Bytes := ps.flatMap m.read

/-! ## The slice plan (R63 to R66) -/

/-- Why a slice is resolved from the table (R64). -/
inductive Resolution where
  | split | damaged | missing
  deriving DecidableEq, Repr

/-- The source of a planned slice (R64). -/
inductive Source where
  | original
  | substituted (age : Nat) (why : Resolution)
  | filler (why : Resolution)
  deriving DecidableEq, Repr

/-- The plan of one slice. -/
structure SlicePlan where
  source : Source
  length : Nat
  pieces : List Piece
  deriving DecidableEq, Repr

/-- R63: the slice checks, on the slice's first 8 bytes and its directory length. -/
def sliceSound (r : Raster) (n length : Nat) (hd : Bytes) : Bool :=
  decide (8 ≤ length) && fieldNat hd 0 2 == n && decide (fieldNat hd 2 1 ≤ 3) && fieldNat hd 4 2 == r.blocks &&
  length == 8 + 2 * fieldNat hd 4 2 + fieldNat hd 6 2

/-- R53, R64: slice resolved from its entry of the table, for the ordinal `k` the frame would receive. -/
def resolve (r : Raster) (k : Nat) (entry : Option SourceEntry) (why : Resolution) : SlicePlan :=
  match entry with
  | some e => { source := .substituted (min 255 (k - e.ordinal)) why, length := e.length, pieces := e.pieces }
  | none => { source := .filler why, length := r.fillerBytes, pieces := [] }

/-- R64: the plan of slice `n`, at directory entry `(o, l)`. -/
def planSlice (m : CellMem) (r : Raster) (hs : List Held) (k n : Nat) (o l : Nat) (entry : Option SourceEntry) :
    SlicePlan :=
  if covered hs o l then
    let ps := piecesOf hs o l
    if sliceSound r n l ((m.readPieces ps).take 8) then
      if ps.length ≤ Config.maxPieces then { source := .original, length := l, pieces := ps }
      else resolve r k entry .split
    else resolve r k entry .damaged
  else resolve r k entry .missing

/-- The plans of the slices from slice `n` on, with the table's entries from entry `n` on. -/
def planSlices (m : CellMem) (r : Raster) (hs : List Held) (k : Nat) :
    Nat → List (Nat × Nat) → List (Option SourceEntry) → List SlicePlan
  | _, [], _ => []
  | n, (o, l) :: dir, sources =>
    planSlice m r hs k n o l (sources.headD none) :: planSlices m r hs k (n + 1) dir sources.tail

/-- A frame's plan: its slices, and its audio's pieces, or none when the audio is filled (R65). -/
structure Plan where
  header : FrameHeader
  slices : List SlicePlan
  audio  : Option (List Piece)
  deriving DecidableEq, Repr

/-- R65: the audio block's plan. -/
def planAudio (hs : List Held) (o l : Nat) : Option (List Piece) :=
  if l = 0 then some []
  else if covered hs o l && decide ((piecesOf hs o l).length ≤ Config.maxPieces) then some (piecesOf hs o l)
  else none

/-- The slice was resolved from the table for this reason. -/
def Source.reason : Source → Option Resolution
  | .original => none
  | .substituted _ w => some w
  | .filler w => some w

/-- The slice is planned ORIGINAL. -/
def SlicePlan.isOriginal (p : SlicePlan) : Bool := p.source == .original

/-- The slice is planned SUBSTITUTED. -/
def SlicePlan.isSubstituted (p : SlicePlan) : Bool :=
  match p.source with | .substituted _ _ => true | _ => false

/-- The slice is planned FILLER. -/
def SlicePlan.isFiller (p : SlicePlan) : Bool :=
  match p.source with | .filler _ => true | _ => false

/-- The planned age (R64). -/
def SlicePlan.age (p : SlicePlan) : Nat :=
  match p.source with | .substituted a _ => a | _ => 0

/-- Slices planned SUBSTITUTED, and FILLER (R74). -/
def Plan.substituted (p : Plan) : Nat := (p.slices.filter SlicePlan.isSubstituted).length
def Plan.fillers (p : Plan) : Nat := (p.slices.filter SlicePlan.isFiller).length

/-- Slices resolved for a reason (R78). -/
def Plan.resolvedFor (p : Plan) (w : Resolution) : Nat := (p.slices.filter fun x => x.source.reason == some w).length

/-- R66: WHOLE when every slice is ORIGINAL and the audio is present. -/
def Plan.whole (p : Plan) : Bool := p.slices.all SlicePlan.isOriginal && p.audio.isSome

/-- R67: the recorded length L. -/
def Plan.recorded (p : Plan) : Nat :=
  p.header.raster.headerBytes + (p.slices.map (·.length)).sum + p.header.audioLength

/-- R67: the padded length P. -/
def Plan.padded (p : Plan) : Nat := ceilDiv p.recorded 512 * 512

/-! ## The decisions (R58) -/

/-- What decisions 1 to 4 make of a released frame. -/
inductive Judged where
  | lost (cause : LostCause)
  | planned (p : Plan)
  deriving DecidableEq, Repr

/-- R58 decisions 1 to 4 (R60 to R62), and the plan of a frame that passes them (R63 to R66). -/
def judge (c : Composition) (m : CellMem) (r : Released) : Judged :=
  match r.kind with
  | .absent => .lost .absent
  | _ =>
    match r.held.find? (fun h => h.index == 0) with
    | none => .lost .headerless
    | some h0 =>
      match parseHeader (m.read { cell := h0.cell, offset := 0, length := h0.length }) with
      | none => .lost .malformed
      | some hd =>
        if some hd.raster ≠ c.raster ∨ (c.rate.isSome ∧ c.rate ≠ some hd.rate) then .lost .format
        else .planned
          { header := hd
            slices := planSlices m hd.raster r.held c.nextOrdinal 0 hd.slices c.sources
            audio := planAudio r.held hd.audioOffset hd.audioLength }

/-- R59: the index room check for the next ordinal. -/
def Take.indexRoom (t : Take) : Bool :=
  decide (t.comp.nextOrdinal / Config.pageEntries < t.pageCount ∧ t.comp.nextOrdinal ≠ 4294967295)

/-- R67: the essence room check. -/
def Take.essenceRoom (t : Take) (p : Plan) : Bool := decide (t.comp.nextOffset + p.padded ≤ t.essence.length)

/-! ## What a composition leaves -/

/-- R59, R67, R85: the frame's holdings are dropped, the take enters DRAINING, and the window discards what it
still holds (R37; assumption 8). -/
def State.areaFull (s : State) (f : FeedNo) (r : Released) (cause : EndCause) : State :=
  ((s.dropCells (heldCells r.held)).enterDraining f cause).discardWindow f

/-- R78: the totals of a REPEAT entry. -/
def ComposeTotals.lost (c : ComposeTotals) : LostCause → ComposeTotals
  | .absent => { c with absent := wrapAdd c.absent 1 }
  | .headerless => { c with headerless := wrapAdd c.headerless 1 }
  | .malformed => { c with malformed := wrapAdd c.malformed 1 }
  | .format => { c with format := wrapAdd c.format 1 }
  | .backlog => { c with backlog := wrapAdd c.backlog 1 }
  | .noCell => { c with noCell := wrapAdd c.noCell 1 }

/-- R77: the interval counts of a REPEAT entry. -/
def ComposeInterval.lostFor (c : ComposeInterval) (cause : LostCause) : ComposeInterval :=
  { c with
    lost := satAdd c.lost 1
    format := if cause = .format then satAdd c.format 1 else c.format
    backlog := if cause = .backlog then satAdd c.backlog 1 else c.backlog }

/-- R73, R74: the REPEAT entry of the next ordinal. -/
def repeatEntry (c : Composition) (r : Released) (cause : LostCause) (suspect : Bool) : IndexEntry :=
  { ordinal := c.nextOrdinal
    essenceOffset := (c.lastRef.map (·.offset)).getD 0
    essenceLength := (c.lastRef.map (·.length)).getD 0
    timecode := (c.lastRef.map (·.timecode)).getD 0
    frameCount := r.frame
    condition := .repeated
    lost := some cause
    substituted := 0
    filler := 0
    suspect := suspect
    discontinuity := r.mark
    audioFilled := false
    browse := .none
    slot := none
    maxAge := 0 }

/-- R73: the frame becomes a REPEAT entry. Its holdings are dropped before its entry joins the page buffer (DEDUCED:
assumption 28). -/
def State.commitRepeat (s : State) (f : FeedNo) (r : Released) (cause : LostCause) : State :=
  let x := s.feed f
  let e := repeatEntry x.take.comp r cause x.health.suspect
  let comp := { x.take.comp with
    nextOrdinal := x.take.comp.nextOrdinal + 1, totals := x.take.comp.totals.lost cause }
  let s := s.setFeed f { x with interval := x.interval.lostFor cause, take := { x.take with comp := comp } }
  (s.dropCells (heldCells r.held)).joinEntry f e

/-- R72: the elements of one planned slice. -/
def SlicePlan.gather (p : SlicePlan) (n : Nat) : List Gather :=
  if p.isFiller then [.filler n p.length] else p.pieces.map .cells

/-- The elements of the slices from slice `n` on. -/
def gatherSlices : Nat → List SlicePlan → List Gather
  | _, [] => []
  | n, p :: ps => p.gather n ++ gatherSlices (n + 1) ps

/-- R72: the gather list, with the rebuilt header in `cell`. -/
def Plan.gather (p : Plan) (cell : Nat) : List Gather :=
  [.cells { cell := cell, offset := 0, length := p.header.raster.headerBytes }] ++ gatherSlices 0 p.slices ++
  (match p.audio with
   | some ps => ps.map .cells
   | none => [.zeros p.header.audioLength]) ++
  (if p.recorded < p.padded then [.zeros (p.padded - p.recorded)] else [])

/-- R46: the distinct cells a gather list names, in the order of their first appearance (R44). -/
def gatherCells (g : List Gather) : List Nat :=
  (g.filterMap fun e => match e with | .cells p => some p.cell | _ => none).eraseDups

/-- The recorded directory (R71): each slice's offset, length, state and age. -/
def directoryBytes (offset : Nat) : List SlicePlan → Bytes
  | [] => []
  | p :: ps =>
    be4 offset ++ be2 p.length ++ be1 (if p.isOriginal then 0 else if p.isSubstituted then 1 else 2) ++ be1 p.age ++
    directoryBytes (offset + p.length) ps

/-- R71: the rebuilt header. -/
def Plan.headerBytes (p : Plan) : Bytes :=
  let r := p.header.raster
  be1 r.code ++ [p.header.rate] ++ beWord p.header.timecode ++ be2 r.slices ++ be4 p.recorded ++
  be4 (r.headerBytes + (p.slices.map (·.length)).sum) ++ be2 p.header.audioLength ++
  be1 (if p.audio.isSome then 0 else 1) ++ zeroBytes 13 ++ directoryBytes r.headerBytes p.slices

/-- R52, R70 step 3: the table with the entry of every slice planned ORIGINAL replaced. -/
def newSources (k : Nat) : List SlicePlan → List (Option SourceEntry) → List (Option SourceEntry)
  | p :: ps, e :: es =>
    (if p.isOriginal then some { pieces := p.pieces, length := p.length, ordinal := k } else e) :: newSources k ps es
  | _, es => es

/-- R70 step 3: the cells of the new source pieces. -/
def addedCells (ps : List SlicePlan) : List Nat :=
  (ps.filter SlicePlan.isOriginal).flatMap fun p => p.pieces.map (·.cell)

/-- R70 step 4: the cells of the replaced source pieces, in ascending slice number and piece order. -/
def replacedCells : List SlicePlan → List (Option SourceEntry) → List Nat
  | p :: ps, e :: es =>
    (if p.isOriginal then (match e with | some e => e.pieces.map (·.cell) | none => []) else []) ++
    replacedCells ps es
  | _, _ => []

/-- R78: the totals of a recorded entry. -/
def ComposeTotals.recorded (c : ComposeTotals) (p : Plan) : ComposeTotals :=
  { c with
    whole := if p.whole then wrapAdd c.whole 1 else c.whole
    patched := if p.whole then c.patched else wrapAdd c.patched 1
    substituted := wrapAdd c.substituted p.substituted
    filler := wrapAdd c.filler p.fillers
    missing := wrapAdd c.missing (p.resolvedFor .missing)
    damaged := wrapAdd c.damaged (p.resolvedFor .damaged)
    split := wrapAdd c.split (p.resolvedFor .split)
    audioFilled := if p.audio.isNone then wrapAdd c.audioFilled 1 else c.audioFilled
    essenceBytes := satAdd c.essenceBytes p.padded }

/-- R70: the composition state a recorded frame leaves. -/
def Composition.record (c : Composition) (p : Plan) : Composition :=
  { c with
    rate := (match c.rate with | some x => some x | none => some p.header.rate)
    lastRef := some { ordinal := c.nextOrdinal, offset := c.nextOffset, length := p.recorded,
                      timecode := p.header.timecode }
    nextOffset := c.nextOffset + p.padded
    nextOrdinal := c.nextOrdinal + 1
    sources := newSources c.nextOrdinal p.slices c.sources
    totals := c.totals.recorded p }

/-- R74: the entry of a recorded frame, with its browse answer. -/
def recordedEntry (c : Composition) (p : Plan) (r : Released) (suspect : Bool) (b : BrowseMark × Option Nat) :
    IndexEntry :=
  { ordinal := c.nextOrdinal
    essenceOffset := c.nextOffset
    essenceLength := p.recorded
    timecode := p.header.timecode
    frameCount := r.frame
    condition := if p.whole then .whole else .patched
    lost := none
    substituted := p.substituted
    filler := p.fillers
    suspect := suspect
    discontinuity := r.mark
    audioFilled := p.audio.isNone
    browse := b.1
    slot := b.2
    maxAge := (p.slices.map SlicePlan.age).foldl max 0 }

/-- R115: what the browse builder reads of a planned slice. -/
def SlicePlan.forBuild (m : CellMem) (p : SlicePlan) : BuildSlice :=
  if p.isFiller then .filler else .read (m.readPieces p.pieces)

/-- R70 steps 1 to 9: holdings, table, header and composition state of a recorded frame. -/
def State.commitPlan (s : State) (f : FeedNo) (r : Released) (p : Plan) (cell : Nat) : State :=
  let x := s.feed f
  let c := x.take.comp
  let others := (gatherCells (p.gather cell)).filter fun n => n != cell
  let cells := ((((s.cells.holdAll others).holdAll (addedCells p.slices)).dropAll
    (replacedCells p.slices c.sources)).dropAll (heldCells r.held)).fill cell p.headerBytes
  let interval := if p.whole then x.interval else { x.interval with patched := satAdd x.interval.patched 1 }
  { s with cells := cells }.setFeed f { x with interval := interval, take := { x.take with comp := c.record p } }

/-- R75 step 1: the browse build of a recorded browse ordinal. -/
def State.askBrowse (s : State) (f : FeedNo) (p : Plan) (k : Nat) : (BrowseMark × Option Nat) × State :=
  if (s.take f).browseOrdinal k then
    s.buildBrowse f p.header.raster (p.slices.map (SlicePlan.forBuild s.cells)) k p.substituted p.fillers
  else ((.none, none), s)

/-- R70, R75: a frame settled by decision 8, with its header cell acquired: committed, then the browse build, the
essence request and the index entry handed on. -/
def State.commitRecorded (s : State) (f : FeedNo) (r : Released) (p : Plan) (cell : Nat) : State :=
  let x := s.feed f
  let c := x.take.comp
  let asked := (s.commitPlan f r p cell).askBrowse f p c.nextOrdinal
  let s := asked.2
  let g := p.gather cell
  let q : Request :=
    { take := f, subject := .essence c.nextOrdinal g, address := x.take.essence.base + c.nextOffset,
      length := p.padded, holdings := gatherCells g }
  let t := s.take f
  let s := (s.setTake f { t with unwritten := t.unwritten ++ [c.nextOrdinal] }).join q
  s.joinEntry f (recordedEntry c p r x.health.suspect asked.1)

/-- R58: the composer settles a released frame by the first decision that applies. -/
def State.compose (s : State) (f : FeedNo) (r : Released) : State :=
  let t := s.take f
  match judge t.comp s.cells r with
  | .lost cause => if t.indexRoom then s.commitRepeat f r cause else s.areaFull f r .indexFull
  | .planned p =>
    if !t.indexRoom then s.areaFull f r .indexFull
    else if !t.essenceRoom p then s.areaFull f r .essenceFull
    else if Config.essenceCapacity ≤ s.store.essenceQ.length then s.commitRepeat f r .backlog
    else match s.cells.acquire with
      | none => s.commitRepeat f r .noCell
      | some (cell, cells) => { s with cells := cells }.commitRecorded f r p cell

end Sys2Proof.Machine
end

