-- ==== Sys2Proof/Machine/Window.lean ====
section
/-! DEFINITION. The window unit's shared operations: release chains, overrun, discontinuity, placement (chapter 2).
DEADLINE_EXPIRY stands at the end. -/

namespace Sys2Proof.Machine

/-! ## Release -/

/-- The take is RECORDING. -/
def State.recording (s : State) (f : FeedNo) : Bool := (s.take f).state == .recording

/-- R22: the front deadline, the deadline of the first record. -/
def Window.frontDeadline (w : Window) : Option Nat := w.records.head?.map (·.deadline)

/-- R26: conditions (a), (b) and (c) on the base, at station time `now`. -/
def Window.mayRelease (w : Window) (now : Nat) : Bool :=
  match w.base, w.records with
  | some b, r :: _ => if r.frame = b then r.complete || decide (r.deadline ≤ now) else decide (r.deadline ≤ now)
  | _, _ => false

/-- R28, R35: the release totals, by kind. -/
def WindowTotals.released (t : WindowTotals) : Kind → WindowTotals
  | .complete => { t with complete := wrapAdd t.complete 1 }
  | .partially => { t with partials := wrapAdd t.partials 1 }
  | .absent => { t with absent := wrapAdd t.absent 1 }

/-- R26, R28: the base frame taken at station time `now` from a window with base `b`: the released frame, and the
window with its base advanced. -/
def Window.takeBase (w : Window) (b : Half) (now : Nat) : Released × Window :=
  let absent : Released × Window :=
    ({ frame := b, kind := .absent, declared := none, held := [], mark := w.mark, time := now },
     { w with base := some (b + 1), mark := false, totals := w.totals.released .absent })
  match w.records with
  | r :: rest =>
    if r.frame = b then
      let kind := if r.complete then Kind.complete else Kind.partially
      ({ frame := b, kind := kind, declared := some r.declared, held := r.held, mark := w.mark, time := now },
       { w with base := some (b + 1), records := rest, mark := false, totals := w.totals.released kind })
    else absent
  | [] => absent

/-- R26, R30: one release of the base, forced or not, composed. -/
def State.releaseBase (s : State) (f : FeedNo) : State :=
  let w := s.window f
  match w.base with
  | none => s
  | some b =>
    let r := w.takeBase b s.time
    (s.setWindow f r.2).compose f r.1

/-- R26: releases while a condition holds and the take is RECORDING. A window with a record reaches it within
65,536 releases. -/
def chainN : Nat → FeedNo → State → State
  | 0, _, s => s
  | n + 1, f, s => if s.recording f && (s.window f).mayRelease s.time then chainN n f (s.releaseBase f) else s

/-- R26 applied to the base. -/
def State.chain (s : State) (f : FeedNo) : State := chainN 65536 f s

/-- R31, R36: forced releases while the window holds a record and the take is RECORDING. -/
def flushN : Nat → FeedNo → State → State
  | 0, _, s => s
  | n + 1, f, s =>
    if s.recording f && !(s.window f).records.isEmpty then flushN n f (s.releaseBase f) else s

/-- R31, R36: the window flushed into the take. -/
def State.flush (s : State) (f : FeedNo) : State := flushN 65536 f s

/-- R30: forced releases, each followed by R26, while frame `x` lies more than 31 from the base. Each release
brings the base at least one nearer, so `n`, the first distance, is enough. -/
def overrunN : Nat → FeedNo → Half → State → State
  | 0, _, _, s => s
  | n + 1, f, x, s =>
    match (s.window f).base with
    | none => s
    | some b =>
      if s.recording f && decide (Config.windowSpan ≤ distance b x) then
        overrunN n f x ((s.releaseBase f).chain f)
      else s

/-! ## Placement (R19 to R25) -/

/-- R20: the first check a fragment fails against its frame count's record. -/
inductive Misplaced where
  | mismatch | duplicate | overlap
  deriving DecidableEq, Repr

/-- R20's checks, in order. -/
def FrameRecord.refuses (r : FrameRecord) (x : Fragment) : Option Misplaced :=
  if x.count ≠ r.declared then some .mismatch
  else if r.held.any (fun h => h.index == x.index) then some .duplicate
  else if r.held.any (fun h => rangesShare h.offset h.length x.offset x.payload.length) then some .overlap
  else none

/-- R35: the total of a failed check. -/
def WindowTotals.misplaced (t : WindowTotals) : Misplaced → WindowTotals
  | .mismatch => { t with mismatch := wrapAdd t.mismatch 1 }
  | .duplicate => { t with duplicate := wrapAdd t.duplicate 1 }
  | .overlap => { t with overlap := wrapAdd t.overlap 1 }

/-- R17: the held fragment of `x` in `cell`. -/
def Fragment.heldIn (x : Fragment) (cell : Nat) : Held :=
  { index := x.index, offset := x.offset, length := x.payload.length, cell := cell }

/-- Held fragments in ascending fragment index. -/
def insertHeld (h : Held) : List Held → List Held
  | [] => [h]
  | x :: xs => if h.index < x.index then h :: x :: xs else x :: insertHeld h xs

/-- R22: a record put in its place in distance order, its deadline the smaller of its own and the nearest later
record's. -/
def insertRecord (b : Half) (r : FrameRecord) : List FrameRecord → List FrameRecord
  | [] => [r]
  | x :: xs =>
    if distance b r.frame < distance b x.frame then { r with deadline := min r.deadline x.deadline } :: x :: xs
    else x :: insertRecord b r xs

/-- The records with `x` filed in the one of its frame count. -/
def fileHeld (frame : Half) (h : Held) (rs : List FrameRecord) : List FrameRecord :=
  rs.map fun r => if r.frame = frame then { r with held := insertHeld h r.held } else r

/-- R21, R34, R35: a fragment dropped for want of a cell. -/
def Window.shortOfCell (w : Window) : Window :=
  { w with interval := { w.interval with cellShort := satAdd w.interval.cellShort 1 },
           totals := { w.totals with cellShort := wrapAdd w.totals.cellShort 1 } }

/-- R25, R83: the first placement moves an ARMED take to RECORDING. -/
def State.startRecording (s : State) (f : FeedNo) : State :=
  if (s.take f).state = .armed then s.setTake f { s.take f with state := .recording } else s

/-- R24, R26: a placement that leaves the base's record COMPLETE applies R26. -/
def State.afterPlacement (s : State) (f : FeedNo) : State :=
  let w := s.window f
  match w.base, w.records with
  | some b, r :: _ => if r.frame = b && r.complete then s.chain f else s
  | _, _ => s

/-- R19 to R25: a fragment at distance 0..31 is placed. -/
def State.place (s : State) (f : FeedNo) (x : Fragment) : State :=
  let w := s.window f
  let b := w.base.getD x.frame
  match w.records.find? fun r => r.frame == x.frame with
  | some r =>
    match r.refuses x with
    | some m => s.setWindow f { w with totals := w.totals.misplaced m }
    | none =>
      match s.cells.acquire with
      | none => s.setWindow f w.shortOfCell
      | some (cell, cells) =>
        let s := { s with cells := cells.fill cell x.payload }
        let s := s.setWindow f { w with base := some b, records := fileHeld x.frame (x.heldIn cell) w.records }
        (s.startRecording f).afterPlacement f
  | none =>
    match s.cells.acquire with
    | none => s.setWindow f w.shortOfCell
    | some (cell, cells) =>
      let r : FrameRecord :=
        { frame := x.frame, declared := x.count, held := [x.heldIn cell], first := x.arrival
          deadline := x.arrival + (s.feed f).entry.depth * 1000 }
      let s := { s with cells := cells.fill cell x.payload }
      let s := s.setWindow f { w with base := some b, records := insertRecord b r w.records }
      (s.startRecording f).afterPlacement f

/-! ## The regions (R18) -/

/-- The regions of R18. -/
inductive Zone where
  | inWindow | overrun | discontinuity | late
  deriving DecidableEq, Repr

/-- R18: the region of a distance, with jump limit `j`. -/
def zoneOf (j d : Nat) : Zone :=
  if d < Config.windowSpan then .inWindow
  else if d < Config.windowSpan + j then .overrun
  else if d < Config.lateFrom then .discontinuity
  else .late

/-- R33: a late fragment is counted and discarded. -/
def Window.lateFragment (w : Window) : Window :=
  { w with interval := { w.interval with late := satAdd w.interval.late 1 },
           totals := { w.totals with late := wrapAdd w.totals.late 1 } }

/-- R37: the fragment that caused releases is discarded when they end the take's recording. -/
def State.discardFragment (s : State) (f : FeedNo) : State :=
  let w := s.window f
  s.setWindow f { w with totals := { w.totals with discarded := wrapAdd w.totals.discarded 1 } }

/-- R30: the overrun counts. -/
def Window.countOverrun (w : Window) : Window :=
  { w with interval := { w.interval with overrun := satAdd w.interval.overrun 1 },
           totals := { w.totals with overrun := wrapAdd w.totals.overrun 1 } }

/-- R31 steps 2 to 4: the base becomes `x`, the mark is set, the counts increase. -/
def Window.rebase (w : Window) (x : Half) : Window :=
  { w with base := some x, mark := true
           interval := { w.interval with discontinuity := satAdd w.interval.discontinuity 1 }
           totals := { w.totals with discontinuity := wrapAdd w.totals.discontinuity 1 } }

/-- R30: an overrun. -/
def State.overrun (s : State) (f : FeedNo) (x : Fragment) (d : Nat) : State :=
  let s := overrunN d f x.frame s
  if s.recording f then (s.setWindow f (s.window f).countOverrun).place f x else s.discardFragment f

/-- R31: a discontinuity. A flush that releases nothing leaves an ARMED take ARMED. -/
def State.discontinuity (s : State) (f : FeedNo) (x : Fragment) : State :=
  let before := (s.take f).state
  let s := s.flush f
  if (s.take f).state = before then (s.setWindow f ((s.window f).rebase x.frame)).place f x
  else s.discardFragment f

/-- R18, R19: what the window unit does with a fragment. -/
def State.takeFragment (s : State) (f : FeedNo) (x : Fragment) : State :=
  match (s.window f).base with
  | none => s.place f x
  | some b =>
    match zoneOf (s.feed f).entry.jump (distance b x.frame) with
    | .inWindow => s.place f x
    | .overrun => s.overrun f x (distance b x.frame)
    | .discontinuity => s.discontinuity f x
    | .late => s.setWindow f (s.window f).lateFragment

/-! ## The command -/

/-- R27: the deadline timer expires: R26 is applied to the base. Before the front deadline, and with no record or no
take RECORDING, there is no expiry (assumption 2). -/
def execDeadlineExpiry (t : Nat) (feed : FeedNo) (s : State) : Host.Outcome State Fault Refusal :=
  let s := s.start t
  match (s.window feed).frontDeadline with
  | none => .next s
  | some d => if s.recording feed && decide (d ≤ s.time) then .next (s.chain feed) else .next s

end Sys2Proof.Machine
end

