-- ==== Sys2Proof/Machine/Intake.lean ====
section
/-! DEFINITION. The line port and intake (chapter 1): ETHERNET_FRAME, from the line to the window unit. -/

namespace Sys2Proof.Machine

/-- R6: the feed whose enabled entry holds this stream tag. -/
def State.feedOfTag (s : State) (tag : Word) : Option FeedNo :=
  (List.finRange 8).find? fun f => (s.feed f).entry.enable && (s.feed f).entry.tag == tag

/-- R10: path accounting of a packet with path sequence `q`. -/
def PathAcc.account (a : PathAcc) (q : Half) : PathAcc :=
  match a.last with
  | none =>
    { a with last := some q, intReceived := satAdd a.intReceived 1, intExpected := satAdd a.intExpected 1,
             received := wrapAdd a.received 1, expected := wrapAdd a.expected 1 }
  | some l =>
    let e := distance l q
    if 1 ≤ e ∧ e ≤ 32767 then
      { a with last := some q, intReceived := satAdd a.intReceived 1, intExpected := satAdd a.intExpected e,
               received := wrapAdd a.received 1, expected := wrapAdd a.expected e }
    else
      { a with intReceived := satAdd a.intReceived 1, received := wrapAdd a.received 1 }

/-- Feed `f` with the accounting of path `p` changed. -/
def State.onPath (s : State) (f : FeedNo) (p : Fin 4) (g : PathAcc → PathAcc) : State :=
  let x := s.feed f
  s.setFeed f { x with intake := { x.intake with paths := x.intake.paths.set p (g x.intake.paths[p]) } }

/-- R7, R8: feed `f` with a count of discarded packets increased. -/
def State.countNoTake (s : State) (f : FeedNo) : State :=
  let x := s.feed f
  s.setFeed f { x with intake := { x.intake with noTake := wrapAdd x.intake.noTake 1 } }

/-- R8. -/
def State.countDisabled (s : State) (f : FeedNo) : State :=
  let x := s.feed f
  s.setFeed f { x with intake := { x.intake with pathDisabled := wrapAdd x.intake.pathDisabled 1 } }

/-- R7: a take in this state lets packets pass. -/
def TakeState.takesPackets : TakeState → Bool
  | .armed => true
  | .recording => true
  | _ => false

/-- R14: the fragment of a packet. -/
def Packet.fragment (p : Packet) (now : Nat) : Fragment :=
  { path := p.path, frame := p.frame, index := p.index, count := p.count, offset := p.offset, payload := p.payload,
    arrival := now }

/-- R7 to R14: a packet of feed `f`. -/
def State.takePacket (s : State) (f : FeedNo) (p : Packet) : State :=
  let x := s.feed f
  if !x.take.state.takesPackets then s.countNoTake f
  else if !x.entry.pathEnabled p.path then s.countDisabled f
  else
    let s := s.onPath f p.path fun a => a.account p.seq
    if pathDropped x.entry x.health p.path then
      s.onPath f p.path fun a => { a with dropped := wrapAdd a.dropped 1 }
    else s.takeFragment f (p.fragment s.time)

/-- R3, R6: intake's first two stages. -/
def State.takePayload (s : State) (u : Bytes) : State :=
  match parsePacket u with
  | none => { s with intake := { s.intake with malformed := wrapAdd s.intake.malformed 1 } }
  | some p =>
    match s.feedOfTag p.tag with
    | none => { s with intake := { s.intake with unclaimed := wrapAdd s.intake.unclaimed 1 } }
    | some f => s.takePacket f p

/-- R1: the line port judges one frame. -/
def execEthernetFrame (t : Nat) (frame : Bytes) (s : State) : Host.Outcome State Fault Refusal :=
  let s := s.start t
  if !s.settings.started then .next { s with line := { s.line with heldOff := wrapAdd s.line.heldOff 1 } }
  else
    match judgeFrame s.line.address s.line.udpPort frame with
    | .corrupt => .next { s with line := { s.line with corrupt := wrapAdd s.line.corrupt 1 } }
    | .foreign => .next { s with line := { s.line with foreign := wrapAdd s.line.foreign 1 } }
    | .accepted u => .next ({ s with line := { s.line with accepted := wrapAdd s.line.accepted 1 } }.takePayload u)

end Sys2Proof.Machine
end

