-- ==== Sys2Proof/Machine/StoreCommands.lean ====
section
/-! DEFINITION. The store port's events: COMPLETION, STORE_TIMEOUT, SETTLING_END (R136 to R145), and the shared
part of RESET STORE. -/

namespace Sys2Proof.Machine

/-! ## Tags and counts -/

/-- A tag of a lane, replaced. -/
def StorePort.setTag (p : StorePort) (lane : LaneNo) (tag : TagNo) (v : Tag) : StorePort :=
  let l := p.lanes[lane]
  { p with lanes := p.lanes.set lane { l with tags := l.tags.set tag v } }

/-- A lane, changed (its counts, R146). -/
def StorePort.onLane (p : StorePort) (lane : LaneNo) (g : Lane → Lane) : StorePort :=
  { p with lanes := p.lanes.set lane (g p.lanes[lane]) }

/-- A tag of a lane. -/
def StorePort.tag (p : StorePort) (lane : LaneNo) (tag : TagNo) : Tag := p.lanes[lane].tags[tag]

/-! ## Telling the owner (R137 to R139) -/

/-- R105: an INDEX write completed OK. -/
def State.countIndexOk (s : State) (f : FeedNo) : State :=
  let t := s.take f
  s.setTake f { t with totals := { t.totals with writesOk := wrapAdd t.totals.writesOk 1 } }

/-- A take's browse totals, changed. -/
def State.onBrowseTotals (s : State) (f : FeedNo) (g : BrowseTotals → BrowseTotals) : State :=
  s.setTake f ((s.take f).browseTotals g)

/-- R103, R137: the owner is told of a completion OK. -/
def State.tellOk (s : State) (r : Request) : State :=
  let f := r.take
  let s := match r.subject with
    | .essence k _ =>
      let t := s.take f
      s.setTake f { t with unwritten := t.unwritten.erase k }
    | .index page count _ =>
      let s := s.countIndexOk f
      let t := s.take f
      let c := cover t.covered t.completed page count
      s.setTake f { t with covered := c.1, completed := c.2 }
    | .browse _ _ =>
      (s.onBrowseTotals f fun b => { b with written := wrapAdd b.written 1 }).clearBusy f
  (s.publishFrontier f).finishChecks f

/-- R103, R121, R138: the owner is told of a failed completion. -/
def State.tellFailed (s : State) (r : Request) : State :=
  let f := r.take
  let s := match r.subject with
    | .essence _ _ => s.failTake f .essenceFailed
    | .index _ _ _ => s.failTake f .indexFailed
    | .browse _ _ =>
      (s.onBrowseTotals f fun b => { b with lostFailed := wrapAdd b.lostFailed 1 }).clearBusy f
  (s.publishFrontier f).finishChecks f

/-- R122, R139: the owner is told of a timeout: a browse write loses its slot and its busy stays set. -/
def State.tellTimeout (s : State) (r : Request) : State :=
  let f := r.take
  let s := match r.subject with
    | .essence _ _ => s.failTake f .essenceFailed
    | .index _ _ _ => s.failTake f .indexFailed
    | .browse _ _ => s.onBrowseTotals f fun b => { b with lostTimeout := wrapAdd b.lostTimeout 1 }
  (s.publishFrontier f).finishChecks f

/-- R122, R140: a quarantined request's tag is freed: a browse write's busy clears. -/
def State.tellLate (s : State) (r : Request) : State :=
  match r.subject with
  | .browse _ _ => s.clearBusy r.take
  | _ => s

/-! ## COMPLETION -/

/-- R136: the judgement of a COMPLETION. -/
inductive CompletionVerdict where
  | ok (r : Issued)
  | failed (r : Issued)
  | late (r : Issued)
  | stray
  deriving DecidableEq, Repr

/-- R136, R190: judged by its epoch and the state of the tag it names; an epoch byte of 4 or more is stale and a tag
byte of 8 or more is stray. -/
def StorePort.judge (p : StorePort) (lane : LaneNo) (epoch tag result : Byte) : CompletionVerdict :=
  if h : tag.toNat < 8 then
    if epoch.toNat = p.epoch.toNat then
      match p.tag lane ⟨tag.toNat, h⟩ with
      | .free => .stray
      | .inFlight r => if result = 0 then .ok r else .failed r
      | .quarantined r => .late r
    else .stray
  else .stray

/-- R137, R138, R140 steps 1 and 2: the tag becomes free, the lane counts, the request's holdings are dropped. -/
def State.endTag (s : State) (lane : LaneNo) (tag : Byte) (r : Issued) (g : Lane → Lane) : State :=
  { s with store := (s.store.setTag lane (Fin.ofNat 8 tag.toNat) .free).onLane lane g }.dropCells r.request.holdings

/-- R141: a stray completion is counted, and STORE_STRAY becomes pending. -/
def State.stray (s : State) : State :=
  { s with store := { s.store with stray := wrapAdd s.store.stray 1 } }.raiseDevice noticeStray

/-- COMPLETION (R136 to R141). -/
def execCompletion (t : Nat) (lane : LaneNo) (epoch tag result pad : Byte) (s : State) :
    Host.Outcome State Fault Refusal :=
  let _ := pad
  let s := s.start t
  match s.store.judge lane epoch tag result with
  | .ok r =>
    .next ((s.endTag lane tag r fun l => { l with ok := wrapAdd l.ok 1 }).tellOk r.request).arbitrate
  | .failed r =>
    .next ((s.endTag lane tag r fun l => { l with failed := wrapAdd l.failed 1 }).tellFailed r.request).arbitrate
  | .late r =>
    .next ((s.endTag lane tag r fun l => { l with late := wrapAdd l.late 1 }).tellLate r.request).arbitrate
  | .stray => .next s.stray

/-! ## STORE_TIMEOUT -/

/-- STORE_TIMEOUT (R139, R142): an in-flight tag whose deadline station time has reached is quarantined; the lane
that has all 8 tags quarantined raises LANE_STALLED. Before the deadline there is no timeout (assumption 2). A
withdrawal that lifts a hold lets the lanes choose (R134). -/
def execStoreTimeout (t : Nat) (lane : LaneNo) (tag : TagNo) (s : State) : Host.Outcome State Fault Refusal :=
  let s := s.start t
  match s.store.tag lane tag with
  | .inFlight r =>
    if r.deadline ≤ s.time then
      let s := { s with store :=
        (s.store.setTag lane tag (.quarantined r)).onLane lane fun l => { l with timeout := wrapAdd l.timeout 1 } }
      let s := s.tellTimeout r.request
      let s := if s.store.lanes[lane].stalled then s.raiseDevice noticeStalled else s
      .next s.arbitrate
    else .next s
  | _ => .next s

/-! ## SETTLING_END -/

/-- SETTLING_END (R145): station time has reached the end of settling, and each lane's arbiter chooses. -/
def execSettlingEnd (t : Nat) (s : State) : Host.Outcome State Fault Refusal :=
  let s := s.start t
  match s.store.settling with
  | .until e =>
    if e ≤ s.time then .next { s with store := { s.store with settling := .ended } }.arbitrate else .next s
  | _ => .next s

/-! ## Store reset (R144) -/

/-- R144 step 2: an in-flight BROWSE request's slot is lost, and the busy of every browse request that ended
clears. -/
def State.loseBrowse (s : State) (i : Issued) (flying : Bool) : State :=
  match i.request.subject with
  | .browse _ _ =>
    let s := if flying then s.onBrowseTotals i.request.take fun b => { b with lostReset := wrapAdd b.lostReset 1 }
      else s
    s.clearBusy i.request.take
  | _ => s

/-- R90: the take's ESSENCE or INDEX requests among the ended in-flight ones. -/
def faultsTake (f : FeedNo) (ended : List Issued) : Bool :=
  ended.any fun i => i.request.take == f && (match i.request.subject with | .browse _ _ => false | _ => true)

/-- R90: one take after the ended requests: RECORDING or DRAINING with an ESSENCE or INDEX request ended enters
FAULTED with STORE_RESET; then the checks of a take whose requests have finished. -/
def State.takeAfterReset (flying : List Issued) (s : State) (f : FeedNo) : State :=
  let s := if faultsTake f flying then s.failTake f .storeReset else s
  s.finishChecks f

/-- R144 step 1: every tag of a lane free. -/
def Lane.freed (l : Lane) : Lane := { l with tags := Vector.replicate 8 .free }

/-- R144: every in-flight and quarantined request ends, the owners are told, the epoch advances and the lanes
choose. DESIGN CHOICE: the order among owners (assumption 9). -/
def State.resetStorePort (s : State) : State :=
  let p := s.store
  let bound := p.bound
  let flying := p.flying
  let late := p.lanes.toList.flatMap fun l => l.tags.toList.filterMap fun t =>
    match t with | .quarantined r => some r | _ => none
  let s := { s with store := { p with
      lanes := p.lanes.map Lane.freed
      epoch := p.epoch + 1
      resets := wrapAdd p.resets 1
      resetRequests := wrapAdd p.resetRequests bound.length } }
  let s := s.dropCells (bound.flatMap fun (i : Issued) => i.request.holdings)
  let s := flying.foldl (fun s i => s.loseBrowse i true) s
  let s := late.foldl (fun s i => s.loseBrowse i false) s
  let s := (List.finRange 8).foldl (State.takeAfterReset flying) s
  s.arbitrate

end Sys2Proof.Machine
end

