-- ==== Sys2Proof/Machine/Link.lean ====
section
/-! DEFINITION. The control link (chapter 9): frames, the exchange, the judgement of a request, replies and their
parts. SPI_EXCHANGE and NEXT_PART stand at the end. -/

namespace Sys2Proof.Machine

/-! ## Frames -/

/-- A reply frame's 128 bytes under a status summary (R191). -/
def Reply.frame (r : Reply) (summary : BitVec 16) : Bytes :=
  fitTo 0 Config.frameBytes
    (be2 summary.toNat ++ [r.code] ++ be1 r.outcome.code ++
     be1 ((if r.clamped then 1 else 0) + (if r.more then 2 else 0)) ++ be1 r.body.length ++ r.body)

/-- The PENDING frame of a request in processing (R169). -/
def Reply.pending (code : Byte) : Reply :=
  { code := code, outcome := .pending, clamped := false, more := false, body := [] }

/-- R168: the frame fixed at the falling edge of select. -/
def State.frameOut (s : State) : Bytes :=
  match s.link.processing with
  | none => s.link.reply.frame s.summary
  | some req => (Reply.pending (requestCode req)).frame s.summary

/-- The low `8 - k` bits of a byte cleared: only its first `k` bits were clocked. -/
def keepTop (k : Nat) (b : Byte) : Byte := BitVec.ofNat 8 (b.toNat / 2 ^ (8 - k) * 2 ^ (8 - k))

/-- R168: the bytes that `bits` clocked bits carry of a frame, most significant bit first; beyond the 128th byte
they are zero. -/
def clockedOut (frame : Bytes) (bits : Nat) : Bytes :=
  fitTo 0 (bits / 8) frame ++ (if bits % 8 = 0 then [] else [keepTop (bits % 8) ((frame.drop (bits / 8)).headD 0)])

/-! ## Replies -/

/-- What a request's owning block answers. -/
structure Answer where
  outcome : ReplyCode
  clamped : Bool
  body    : Bytes
  deriving DecidableEq, Repr

/-- DONE with a body. -/
def Answer.done (body : Bytes) : Answer := { outcome := .done, clamped := false, body := body }

/-- DONE, with CLAMPED when a value was clamped (R175). -/
def Answer.set (clamped : Bool) : Answer := { outcome := .done, clamped := clamped, body := [] }

/-- A refusal: no body and no flags (R172). -/
def Answer.refuse (o : ReplyCode) : Answer := { outcome := o, clamped := false, body := [] }

/-- R174: the replies of an answer, one per part of 122 bytes, MORE on every part but the last. -/
def replyParts (code : Byte) (a : Answer) : List Bytes → List Reply
  | [] => []
  | [b] => [{ code := code, outcome := a.outcome, clamped := a.clamped, more := false, body := b }]
  | b :: bs => { code := code, outcome := a.outcome, clamped := a.clamped, more := true, body := b } ::
      replyParts code a bs

/-- R172, R174: the reply is built: its first part is the current reply, the rest are held, no request is in
processing and READY is active. -/
def State.answer (s : State) (code : Byte) (a : Answer) : State :=
  match replyParts code a (cutParts Config.partBytes 16 a.body) with
  | [] => s
  | r :: rest => { s with link := { s.link with reply := r, parts := rest, processing := none } }

/-! ## Judging a request (R172) -/

/-- R172 steps 1 to 4: the outcome given without dispatch, if any. -/
def State.judgeRequest (s : State) (req : Bytes) : Option ReplyCode :=
  if !s.settings.started && requestCode req != 0x01 then some .notStarted
  else if requestCode req = 0 ∧ s.link.parts ≠ [] then none
  else match bodyFits (requestCode req) (requestLength req) with
    | none => some .unknownRequest
    | some fits => if 126 < requestLength req ∨ fits = false then some .badArgument else none

/-- R172: a taken request discards the held reply parts unless its code is 0x00. -/
def State.discardParts (s : State) (req : Bytes) : State :=
  if requestCode req = 0 then s else { s with link := { s.link with parts := [] } }

/-- R171, R180: a HELLO being dispatched clears RESET_SEEN. -/
def State.dispatchHello (s : State) (req : Bytes) : State :=
  if requestCode req = 0x01 then { s with link := { s.link with resetSeen := false } } else s

/-- R168, R172: the request of a taken exchange: in processing, and dispatched, or answered at once when no dispatch
is needed to answer it (assumption 7). -/
def State.takeRequest (s : State) (req : Bytes) : State :=
  let s := { s with link := { s.link with processing := some req } }.discardParts req
  match s.judgeRequest req with
  | some o => s.answer (requestCode req) (.refuse o)
  | none => s.dispatchHello req

/-- A request's step: when it is the request in processing it is judged, carried out by `g` on its body, and its
reply built; when it is not, there is no such step (assumption 3). -/
def carryOut (code : Byte) (t : Nat) (s : State) (g : State → Bytes → State × Answer) :
    Host.Outcome State Fault Refusal :=
  let s := s.start t
  match s.link.processing with
  | none => .next s
  | some req =>
    if requestCode req = code then
      match s.judgeRequest req with
      | some o => .next (s.answer code (.refuse o))
      | none => .next ((g s (requestBody req)).1.answer code (g s (requestBody req)).2)
    else .next s

/-! ## The commands -/

/-- SPI_EXCHANGE (R168 to R170). -/
def execSpiExchange (t : Nat) (bits : Nat) (mosi : Bytes) (s : State) : Host.Outcome State Fault Refusal :=
  let s := s.start t
  let early := s.link.processing.isSome
  let s := { s with out := { s.out with miso := clockedOut s.frameOut bits } }
  if early then .next { s with link := { s.link with early := s.link.early + 1 } }
  else if bits ≠ 1024 then .next { s with link := { s.link with short := s.link.short + 1 } }
  else .next (s.takeRequest (fitTo 0 Config.frameBytes mosi))

/-- NEXT_PART (R174): a request of code 0x00 in processing takes the next held part as the current reply. -/
def execNextPart (t : Nat) (s : State) : Host.Outcome State Fault Refusal :=
  let s := s.start t
  match s.link.processing with
  | none => .next s
  | some req =>
    if requestCode req = 0 then
      match s.judgeRequest req, s.link.parts with
      | none, r :: rest => .next { s with link := { s.link with reply := r, parts := rest, processing := none } }
      | none, [] => .next s
      | some o, _ => .next (s.answer 0 (.refuse o))
    else .next s

end Sys2Proof.Machine
end

