-- ==== Sys2Proof/Machine/Monitor.lean ====
section
/-! DEFINITION. The health monitor (chapter 8): INTERVAL_END, and the requests SET MONITOR, SET ACTIONS,
READ CONDITIONS, CLEAR CONDITIONS. -/

namespace Sys2Proof.Machine

/-! ## The interval end -/

/-- R11: the loss per mille of a path's interval. -/
def PathAcc.loss (a : PathAcc) : Nat :=
  if 0 < a.intExpected.toNat then (a.intExpected.toNat - a.intReceived.toNat) * 1000 / a.intExpected.toNat else 0

/-- R11: both interval counts return to 0. -/
def PathAcc.close (a : PathAcc) : PathAcc := { a with intReceived := 0, intExpected := 0 }

/-- R149: the measure of condition `n` that a feed's blocks hand over. -/
def Feed.measure (x : Feed) (n : Nat) : Word :=
  if h : n < 4 then BitVec.ofNat 32 (x.intake.paths[n]).loss
  else if h : n - 4 < 4 then (x.intake.paths[n - 4]).intReceived
  else if n = 8 then x.window.interval.late
  else if n = 9 then x.interval.patched
  else if n = 10 then x.interval.lost
  else if n = 11 then x.window.interval.overrun
  else if n = 12 then x.window.interval.discontinuity
  else if n = 13 then x.interval.format
  else if n = 14 then x.interval.browseSkip
  else if n = 15 then x.interval.backlog
  else x.window.interval.cellShort

/-- R153: condition `n` is present on measure `m`. -/
def Feed.present (x : Feed) (n : Nat) (m : Word) : Bool :=
  if n < 4 then x.entry.paths.getLsbD n && decide (x.health.loss < m.toNat)
  else if n < 8 then x.entry.paths.getLsbD (n - 4) && m == 0
  else if n = 8 then decide (x.health.late ≤ m.toNat)
  else if n = 9 then decide (x.health.patch ≤ m.toNat)
  else decide (1 ≤ m.toNat)

/-- R154, R155: a condition of an evaluated feed, with filter `f` and its measure. -/
def Condition.judge (c : Condition) (f : Nat) (present : Bool) (m : Word) : Condition :=
  let run := if present then min (c.run + 1) f else 0
  let dynamic := present && (run == f || c.dynamic)
  { c with run := run, dynamic := dynamic, latched := c.latched || dynamic, last := m }

/-- R152: a condition of a feed that is not evaluated. -/
def Condition.idle (c : Condition) : Condition := { c with run := 0, dynamic := false, last := 0 }

/-- R152: the conditions of a feed after an interval end. -/
def Feed.judged (x : Feed) (filter : Nat) : Health :=
  if x.take.state = .recording then
    { x.health with
      conds := Vector.ofFn fun (i : Fin 17) =>
        x.health.conds[i].judge filter (x.present i.val (x.measure i.val)) (x.measure i.val)
      evaluated := true }
  else { x.health with conds := x.health.conds.map Condition.idle, evaluated := false }

/-- R158: the notices an interval end raises for a feed that is evaluated: a condition holding NOTICE whose selected
flag goes from clear to set. -/
def Feed.noticesAt (x : Feed) (filter : Nat) : BitVec 19 :=
  if x.take.state = .recording then
    (List.finRange 17).foldl (fun m (i : Fin 17) =>
      let before := x.health.conds[i]
      let after := (x.judged filter).conds[i]
      if before.actions.notice && !before.selected && after.selected then m ||| (1#19 <<< i.val) else m) 0
  else 0

/-- R11, R34, R77, R124: every interval count handed over and set to 0. -/
def Feed.closeInterval (x : Feed) : Feed :=
  { x with
    intake := { x.intake with paths := x.intake.paths.map PathAcc.close }
    window := { x.window with interval := WindowInterval.reset }
    interval := ComposeInterval.reset }

/-- R152: one feed after an interval end. -/
def Feed.afterInterval (x : Feed) (filter : Nat) : Feed := { x.closeInterval with health := x.judged filter }

/-- R151: the first multiple of an interval, in ms, greater than a station time. -/
def nextMultiple (ms now : Nat) : Nat := (now / (ms * 1000) + 1) * (ms * 1000)

/-- INTERVAL_END (R151, R152), at its nominal time (assumption 27). Before the next interval end there is none
(assumption 2). -/
def execIntervalEnd (t : Nat) (s : State) : Host.Outcome State Fault Refusal :=
  let s := s.start t
  let m := s.monitor
  if m.nextEnd ≤ s.time then
    let raised := Vector.ofFn fun (i : Fin 8) => s.link.pending.feeds[i] ||| (s.feeds[i]).noticesAt m.filter
    .next { s with
      feeds := s.feeds.map fun x => x.afterInterval m.filter
      monitor := { m with latest := some m.nextEnd, nextEnd := nextMultiple m.interval m.nextEnd }
      link := { s.link with pending := { s.link.pending with feeds := raised } } }
  else .next s

/-! ## Settings -/

/-- R151: a monitor interval in force, changed or not, at station time `now`. -/
def MonitorDevice.setInterval (m : MonitorDevice) (ms now : Nat) : MonitorDevice :=
  if ms = m.interval then m else { m with interval := ms, nextEnd := nextMultiple ms now }

/-- R150: a feed's thresholds and autoclear replaced. -/
def Health.withSettings (h : Health) (a : MonitorFeedArgs) : Health :=
  { h with loss := a.loss, late := a.late, patch := a.patch, autoclear := a.autoclear }

/-- R150: a feed's values clamped. -/
def MonitorFeedArgs.clamped (a : MonitorFeedArgs) : MonitorFeedArgs :=
  { a with loss := clamp 1 1000 a.loss, late := clamp 1 65535 a.late, patch := clamp 1 255 a.patch }

/-- R150: the arguments clamped. -/
def MonitorArgs.clamped (a : MonitorArgs) : MonitorArgs :=
  { interval := clamp 10 1000 a.interval, filter := clamp 1 8 a.filter, feeds := a.feeds.map MonitorFeedArgs.clamped }

/-- R150, R151: the monitor's settings replaced. -/
def State.setMonitorTo (s : State) (a : MonitorArgs) : State :=
  { s with
    monitor := { s.monitor.setInterval a.interval s.time with filter := a.filter }
    feeds := Vector.ofFn fun (i : Fin 8) => { s.feeds[i] with health := (s.feeds[i]).health.withSettings a.feeds[i] } }

/-- SET MONITOR (R150). -/
def setMonitorStep (s : State) (b : Bytes) : State × Answer :=
  match parseMonitor b with
  | none => (s, .refuse .badArgument)
  | some a => (s.setMonitorTo a.clamped, .set (a.clamped != a))

/-- R157: a feed's selects and action sets replaced. -/
def Health.withActions (h : Health) (v : Vector (Select × Actions) 17) : Health :=
  { h with conds := Vector.ofFn fun (i : Fin 17) => { h.conds[i] with select := v[i].1, actions := v[i].2 } }

/-- SET ACTIONS (R157). -/
def setActionsStep (s : State) (b : Bytes) : State × Answer :=
  match feedOf (fieldNat b 0 1), parseConditions (b.drop 1) with
  | some f, some v =>
    if dropMisplaced v then (s, .refuse .badArgument)
    else (s.setHealth f ((s.health f).withActions v), .set false)
  | _, _ => (s, .refuse .badArgument)

/-- R164: one condition's items. -/
def Condition.report (c : Condition) : Bytes :=
  be1 c.run ++ beFlag c.dynamic ++ beFlag c.latched ++ be1 c.select.code ++ be1 c.actions.mask ++
  beFlag c.selected ++ beWord c.last

/-- R164, R191: READ CONDITIONS's body, in the order the rule lists, each setting in 2 bytes (assumption 15). -/
def conditionsBody (s : State) (f : FeedNo) : Bytes :=
  let h := s.health f
  be2 s.monitor.interval ++ be2 s.monitor.filter ++ beOpt 8 s.monitor.latest ++
  be2 h.loss ++ be2 h.late ++ be2 h.patch ++ beFlag h.autoclear ++ beFlag h.evaluated ++
  h.conds.toList.flatMap Condition.report

/-- READ CONDITIONS (R164). -/
def readConditionsStep (s : State) (b : Bytes) : State × Answer :=
  match feedOf (fieldNat b 0 1) with
  | some f => (s, .done (conditionsBody s f))
  | none => (s, .refuse .badArgument)

/-- R163: the latched flags of a feed as a set. -/
def Health.latchedSet (h : Health) : BitVec 17 := condSet h Condition.latched

/-- CLEAR CONDITIONS (R163). -/
def clearConditionsStep (s : State) (b : Bytes) : State × Answer :=
  match feedOf (fieldNat b 0 1), parseConditionSet (field b 1 4) with
  | some f, some named =>
    let h := (s.health f).clearLatched named
    (s.setHealth f h, .done (be4 h.latchedSet.toNat))
  | _, _ => (s, .refuse .badArgument)

/-! ## The requests -/

/-- SET MONITOR (R150). -/
def execSetMonitor (t : Nat) (s : State) : Host.Outcome State Fault Refusal := carryOut 0x30 t s setMonitorStep

/-- SET ACTIONS (R157). -/
def execSetActions (t : Nat) (s : State) : Host.Outcome State Fault Refusal := carryOut 0x31 t s setActionsStep

/-- READ CONDITIONS (R164). -/
def execReadConditions (t : Nat) (s : State) : Host.Outcome State Fault Refusal := carryOut 0x32 t s readConditionsStep

/-- CLEAR CONDITIONS (R163). -/
def execClearConditions (t : Nat) (s : State) : Host.Outcome State Fault Refusal := carryOut 0x33 t s clearConditionsStep

end Sys2Proof.Machine
end

