-- ==== Sys2Proof/Machine/FeedCommands.lean ====
section
/-! DEFINITION. The requests of the feed table: SET FEED, READ FEED, FEED STATUS (R2 to R13, R35). -/

namespace Sys2Proof.Machine

/-! ## SET FEED (R5) -/

/-- A take is IDLE. -/
def State.idle (s : State) (f : FeedNo) : Bool := (s.take f).state == .idle

/-- Some take of the part is not IDLE. -/
def State.anyTake (s : State) : Bool := (List.finRange 8).any fun f => !s.idle f

/-- R5 step 5: the enable is on and another enabled entry holds the stream tag. -/
def State.tagClashes (s : State) (f : FeedNo) (e : FeedEntry) : Bool :=
  e.enable && (List.finRange 8).any fun g => g != f && (s.feed g).entry.enable && (s.feed g).entry.tag == e.tag

/-- R5 steps 2 to 5, in order: the refusal of a SET FEED of feed `f`. -/
def State.refusesFeed (s : State) (f : FeedNo) (a : SetFeedArgs) : Option ReplyCode :=
  if !s.idle f then some .refusedBusy
  else if a.line.isSome && s.anyTake then some .refusedBusy
  else if a.entry.enable && a.entry.paths == 0 then some .badArgument
  else if s.tagClashes f a.entry then some .badArgument
  else none

/-- R4, R5: an entry's numeric settings clamped. -/
def FeedEntry.clamped (e : FeedEntry) : FeedEntry :=
  { e with depth := clamp 20 2000 e.depth, jump := clamp 0 1024 e.jump, publish := clamp 40 2000 e.publish }

/-- R2, R5: a line part's settings, the port number clamped. -/
def clampedLine (l : Word × Nat) : Word × Nat := (l.1, clamp 1 65535 l.2)

/-- R5: a feed entry replaced whole, and the line port's settings when the line part is present. -/
def State.setEntry (s : State) (f : FeedNo) (e : FeedEntry) (l : Option (Word × Nat)) : State :=
  let s := s.setFeed f { s.feed f with entry := e }
  match l with
  | none => s
  | some (address, port) => { s with line := { s.line with address := address, udpPort := port } }

/-- SET FEED (R5). A value that names nothing is judged before R5's own refusals (R191). -/
def setFeedStep (s : State) (b : Bytes) : State × Answer :=
  match parseSetFeed b with
  | none => (s, .refuse .badArgument)
  | some a =>
    match feedOf a.feed with
    | none => (s, .refuse .badArgument)
    | some f =>
      match s.refusesFeed f a with
      | some o => (s, .refuse o)
      | none =>
        (s.setEntry f a.entry.clamped (a.line.map clampedLine),
         .set (a.entry.clamped != a.entry || a.line.map clampedLine != a.line))

/-! ## READ FEED (R5) -/

/-- R173: the feed entry, the receive address and the UDP port number. -/
def readFeedBody (s : State) (f : FeedNo) : Bytes :=
  (s.feed f).entry.bytes ++ beWord s.line.address ++ be2 s.line.udpPort

/-- READ FEED (R5). -/
def readFeedStep (s : State) (b : Bytes) : State × Answer :=
  match feedOf (fieldNat b 0 1) with
  | some f => (s, .done (readFeedBody s f))
  | none => (s, .refuse .badArgument)

/-! ## FEED STATUS (R173) -/

/-- R35: the window totals, in the order of R35's table. -/
def WindowTotals.bytes (t : WindowTotals) : Bytes :=
  [t.late, t.duplicate, t.overlap, t.mismatch, t.cellShort, t.overrun, t.discontinuity, t.complete, t.partials,
   t.absent, t.discarded].flatMap beWord

/-- R9: one path's last sequence, totals and drop state. -/
def Feed.pathReport (x : Feed) (p : Fin 4) : Bytes :=
  let a := x.intake.paths[p]
  beOpt 2 (a.last.map BitVec.toNat) ++ beWord a.received ++ beWord a.expected ++ beWord a.dropped ++
  beFlag (pathDropped x.entry x.health p)

/-- R173, R191: FEED STATUS's body (assumption 13). -/
def feedStatusBody (s : State) (f : FeedNo) : Bytes :=
  let x := s.feed f
  beOpt 2 (x.window.base.map BitVec.toNat) ++ be1 x.window.records.length ++
  beOpt 8 (x.window.frontDeadline.map fun d => d - s.time) ++ x.window.totals.bytes ++
  (List.finRange 4).flatMap x.pathReport ++
  [x.intake.noTake, x.intake.pathDisabled, s.line.accepted, s.line.heldOff, s.line.corrupt, s.line.foreign,
   s.intake.malformed, s.intake.unclaimed].flatMap beWord

/-- FEED STATUS (R173). -/
def feedStatusStep (s : State) (b : Bytes) : State × Answer :=
  match feedOf (fieldNat b 0 1) with
  | some f => (s, .done (feedStatusBody s f))
  | none => (s, .refuse .badArgument)

/-! ## The requests -/

/-- SET FEED (R5). -/
def execSetFeed (t : Nat) (s : State) : Host.Outcome State Fault Refusal := carryOut 0x10 t s setFeedStep

/-- READ FEED (R5). -/
def execReadFeed (t : Nat) (s : State) : Host.Outcome State Fault Refusal := carryOut 0x11 t s readFeedStep

/-- FEED STATUS (R173). -/
def execFeedStatus (t : Nat) (s : State) : Host.Outcome State Fault Refusal := carryOut 0x12 t s feedStatusStep

end Sys2Proof.Machine
end

