-- ==== Sys2Proof/Machine/TakeCommands.lean ====
section
/-! DEFINITION. The take manager's commands (chapter 5): PUBLISH_TIMER_EXPIRY, ARM TAKE, STOP TAKE, ABORT TAKE,
RELEASE TAKE, TAKE STATUS, FLUSH INDEX. -/

namespace Sys2Proof.Machine

/-! ## The publish timer (R96) -/

/-- The publish timer stopped, at its expiry (R96). -/
def State.stopTimer (s : State) (f : FeedNo) : State := s.setTake f { s.take f with timer := none }

/-- PUBLISH_TIMER_EXPIRY (R95, R96): the timer stops and its trigger acts. Before the expiry, and with the timer
stopped, there is no expiry (assumption 2). -/
def execPublishTimerExpiry (t : Nat) (feed : FeedNo) (s : State) : Host.Outcome State Fault Refusal :=
  let s := s.start t
  match (s.take feed).timer with
  | none => .next s
  | some e => if e ≤ s.time then .next ((s.stopTimer feed).timerTrigger feed) else .next s

/-! ## ARM TAKE (R81, R82) -/

/-- An area's base and length are multiples of 512 and its end is at most 2^64 (R81). -/
def Area.sound (a : Area) : Bool := a.base % 512 == 0 && a.length % 512 == 0 && decide (a.base + a.length ≤ 2 ^ 64)

/-- Two areas share a byte (R81). -/
def Area.shares (a b : Area) : Bool := rangesShare a.base a.length b.base b.length

/-- The three areas ARM TAKE names. -/
def ArmArgs.areas (a : ArmArgs) : List Area := [a.essence, a.browse, a.index]

/-- The three areas of a take. -/
def Take.areas (t : Take) : List Area := [t.essence, t.browse, t.index]

/-- R81's last area test: an area shares a byte with an area of a take that is not IDLE. -/
def State.areaTaken (s : State) (a : Area) : Bool :=
  (List.finRange 8).any fun g => !s.idle g && (s.take g).areas.any a.shares

/-- R81's area tests. -/
def State.areasFit (s : State) (a : ArmArgs) (p : Profile) : Bool :=
  a.areas.all Area.sound && decide (512 ≤ a.essence.length) && decide (2048 ≤ a.index.length) &&
  (a.browse.length != 0 || p == .none) &&
  !a.essence.shares a.browse && !a.essence.shares a.index && !a.browse.shares a.index &&
  a.areas.all fun x => !s.areaTaken x

/-- The free contexts, in ascending number. -/
def State.freeContextList (s : State) : List (Fin 16) :=
  (List.finRange 16).filter fun c => s.pool.contexts[c].isNone

/-- R81 step 6: a list of the wrong length, or with a number of 16 or above, or with a number twice. -/
def badChoice (need : Nat) : ContextChoice → Bool
  | .auto => false
  | .list n l => n != need || l.length != need || l.any (fun c => decide (16 ≤ c)) || l.eraseDups.length != l.length

/-- The contexts a choice names (R109): AUTO takes the lowest-numbered free ones. -/
def State.chosen (s : State) (need : Nat) : ContextChoice → List (Fin 16)
  | .auto => s.freeContextList.take need
  | .list _ l => l.map fun c => Fin.ofNat 16 c

/-- R81 step 7: a listed context is held, or AUTO finds too few. -/
def State.lacksContexts (s : State) (need : Nat) (choice : ContextChoice) : Bool :=
  match choice with
  | .auto => decide (s.freeContextList.length < need)
  | .list _ _ => (s.chosen need choice).any fun c => s.pool.contexts[c].isSome

/-- R81: an ARM TAKE judged in order: its refusal, or its raster and profile. -/
def State.judgeArm (s : State) (f : FeedNo) (a : ArmArgs) : Except ReplyCode (Raster × Profile) :=
  if !s.idle f then .error .refusedState
  else if !(s.feed f).entry.enable then .error .refusedState
  else match Raster.ofCode a.raster, Profile.ofCode a.profile with
    | some r, some p =>
      if !s.areasFit a p then .error .badArgument
      else if badChoice (contextsNeeded r p) a.choice then .error .badArgument
      else if s.lacksContexts (contextsNeeded r p) a.choice then .error .noResource
      else .ok (r, p)
    | _, _ => .error .badArgument

/-- R109: contexts allocated to a feed, their positions counted from `k`. -/
def allocate (f : FeedNo) : Nat → List (Fin 16) → Vector Context 16 → Vector Context 16
  | _, [], v => v
  | k, c :: cs, v => allocate f (k + 1) cs (v.set c (some (f, k)))

/-- R57, R50: the composition state at ARM TAKE acceptance. -/
def Composition.armed (r : Raster) : Composition :=
  { Composition.reset with raster := some r, sources := List.replicate r.slices none }

/-- R110: the browse state at ARM TAKE acceptance. -/
def BrowseState.armed (r : Raster) (p : Profile) (area : Area) : BrowseState :=
  { BrowseState.reset with
    status := if p = .none then .inactive else .active
    slotBytes := Machine.slotBytes r p
    slotCount := area.length / Machine.slotBytes r p }

/-- R80, R82: the take record at ARM TAKE acceptance. -/
def Take.armed (a : ArmArgs) (r : Raster) (p : Profile) : Take :=
  { Take.reset with
    state := .armed, id := a.id, profile := p, divisor := clamp 1 4 a.divisor, essence := a.essence
    browse := a.browse, index := a.index, comp := Composition.armed r, copy := BrowseState.armed r p a.browse }

/-- R82: everything of a feed that ARM TAKE acceptance sets. The counts NO_TAKE and PATH_DISABLED and the health
records stay. -/
def Feed.armed (x : Feed) (a : ArmArgs) (r : Raster) (p : Profile) : Feed :=
  { x with
    intake := { x.intake with paths := Vector.replicate 4 PathAcc.reset }
    window := Window.reset
    interval := ComposeInterval.reset
    take := Take.armed a r p }

/-- R82, R109: an accepted ARM TAKE. -/
def State.arm (s : State) (f : FeedNo) (a : ArmArgs) (r : Raster) (p : Profile) : State :=
  { s with pool := { s.pool with
      contexts := allocate f 0 (s.chosen (contextsNeeded r p) a.choice) s.pool.contexts } }.setFeed f
    ((s.feed f).armed a r p)

/-- ARM TAKE (R81, R82). -/
def armTakeStep (s : State) (b : Bytes) : State × Answer :=
  match parseArm b with
  | none => (s, .refuse .badArgument)
  | some a =>
    match feedOf a.feed with
    | none => (s, .refuse .badArgument)
    | some f =>
      match s.judgeArm f a with
      | .error o => (s, .refuse o)
      | .ok (r, p) =>
        (s.arm f a r p,
         { outcome := .done, clamped := clamp 1 4 a.divisor != a.divisor
           body := (s.chosen (contextsNeeded r p) a.choice).flatMap fun c => be1 c.val })

/-! ## STOP, ABORT and RELEASE -/

/-- R36: the window's base becomes unset after the flush. -/
def State.unsetBase (s : State) (f : FeedNo) : State := s.setWindow f { s.window f with base := none }

/-- R84: STOP TAKE of a take in RECORDING: flushed, then drained unless the flush has ended the recording. A mark
still pending stays (assumption 29). -/
def State.stopRecording (s : State) (f : FeedNo) : State :=
  let s := s.flush f
  if s.recording f then (s.unsetBase f).enterDraining f .stopped else s

/-- A request that names a feed: a feed number of 8 or more is refused BAD_ARGUMENT (R173). -/
def onFeed (s : State) (b : Bytes) (g : FeedNo → State × Answer) : State × Answer :=
  match feedOf (fieldNat b 0 1) with
  | none => (s, .refuse .badArgument)
  | some f => g f

/-- STOP TAKE (R84). -/
def stopTakeStep (s : State) (b : Bytes) : State × Answer :=
  onFeed s b fun f =>
    match (s.take f).state with
    | .recording => (s.stopRecording f, .set false)
    | .armed => (s.enterDraining f .stopped, .set false)
    | _ => (s, .refuse .refusedState)

/-- R88: ABORT TAKE of an ARMED take: ABORTED at once, its browse ended and its contexts freed (R123). -/
def State.abortArmed (s : State) (f : FeedNo) : State :=
  ((s.setTake f { s.take f with endCause := some .aborted }).endTake f .aborted).endBrowse f .takeEnded

/-- ABORT TAKE (R88). A withdrawal that lifts a hold lets the lanes choose (R134). -/
def abortTakeStep (s : State) (b : Bytes) : State × Answer :=
  onFeed s b fun f =>
    match (s.take f).state with
    | .armed => (s.abortArmed f, .set false)
    | .recording => ((s.enterAborting f).arbitrate, .set false)
    | .draining => ((s.enterAborting f).arbitrate, .set false)
    | _ => (s, .refuse .refusedState)

/-- R91: the take record on returning to IDLE. -/
def Take.released (t : Take) : Take :=
  { t with state := .idle, comp := { t.comp with sources := [] }, page := PageBuffer.reset }

/-- R91: a take returns to IDLE; an entry its table still held would lose its holdings (R54). -/
def State.release (s : State) (f : FeedNo) : State :=
  let s := s.emptySources f
  s.setTake f (s.take f).released

/-- R91: RELEASE TAKE of a take that has ended. -/
def releaseEnded (s : State) (f : FeedNo) : State × Answer :=
  if s.store.anyBound f then (s, .refuse .refusedBusy) else (s.release f, .set false)

/-- RELEASE TAKE (R91). -/
def releaseTakeStep (s : State) (b : Bytes) : State × Answer :=
  onFeed s b fun f =>
    match (s.take f).state with
    | .closed => releaseEnded s f
    | .aborted => releaseEnded s f
    | .faulted => releaseEnded s f
    | _ => (s, .refuse .refusedState)

/-! ## TAKE STATUS (R104) -/

/-- The requests of a take in flight, by class. -/
def StorePort.flyingOf (p : StorePort) (f : FeedNo) (c : StoreClass) : Nat :=
  (p.flying.filter fun i => i.request.take == f && i.request.cls == c).length

/-- Section PROGRESS (R104). The requests by class are the three numbers queued, INDEX, ESSENCE and BROWSE, and behind
them the three in flight (DESIGN CHOICE: assumption 14). -/
def progressBody (s : State) (f : FeedNo) : Bytes :=
  let t := s.take f
  be1 t.state.code ++ beOpt 1 (t.endCause.map EndCause.code) ++ be4 t.comp.nextOrdinal ++ be4 t.covered ++
  be4 t.frontier ++ be1 t.unwritten.length ++ beOpt 4 t.unwritten.head? ++
  be4 t.page.openPage ++ be1 t.page.entries.length ++ be1 t.page.captured ++ beFlag t.page.owed ++
  beOpt 4 (t.page.waiting.map (·.page)) ++ beOpt 4 t.page.finalPage ++
  beOpt 8 (t.timer.map fun e => e - s.time) ++
  be1 (queuedOf f s.store.indexQ).length ++ be1 (queuedOf f s.store.essenceQ).length ++
  be1 (queuedOf f s.store.browseQ).length ++
  be1 (s.store.flyingOf f .index) ++ be1 (s.store.flyingOf f .essence) ++ be1 (s.store.flyingOf f .browse) ++
  [t.totals.queued, t.totals.rebuilt, t.totals.owed, t.totals.writesOk].flatMap beWord

/-- The present entries of a slice source table (R55). -/
def presentEntries (sources : List (Option SourceEntry)) : List SourceEntry := sources.filterMap id

/-- R55: the smallest source ordinal, or none. -/
def smallestOrdinal : List SourceEntry → Option Nat
  | [] => none
  | e :: es => some (es.foldl (fun m x => min m x.ordinal) e.ordinal)

/-- The composer's totals, in the order of R78's table. -/
def ComposeTotals.bytes (c : ComposeTotals) : Bytes :=
  [c.whole, c.patched, c.absent, c.headerless, c.malformed, c.format, c.backlog, c.noCell, c.substituted, c.filler,
   c.missing, c.damaged, c.split, c.audioFilled, c.essenceBytes].flatMap beWord

/-- Section COMPOSITION (R57, R55, R78, R104; assumption 14). -/
def compositionBody (s : State) (f : FeedNo) : Bytes :=
  let c := (s.take f).comp
  let es := presentEntries c.sources
  beOpt 1 (c.raster.map Raster.code) ++ beOpt 1 (c.rate.map BitVec.toNat) ++ be4 c.nextOrdinal ++
  be8 c.nextOffset ++ beOpt 4 (c.lastRef.map (·.ordinal)) ++ beOpt 8 (c.lastRef.map (·.offset)) ++
  beOpt 4 (c.lastRef.map (·.length)) ++ beOpt 4 (c.lastRef.map (·.timecode.toNat)) ++
  be1 es.length ++ be4 (es.map (·.pieces.length)).sum ++ beOpt 4 (smallestOrdinal es) ++ c.totals.bytes

/-- Section AREAS (R104): contexts held, none or more, one byte each; none gives no byte. The number of index pages has 4
bytes (R191), the low 32 bits of a larger number (DESIGN CHOICE: assumption 14). -/
def areasBody (s : State) (f : FeedNo) : Bytes :=
  let t := s.take f
  beWord t.id ++ beOpt 1 (t.comp.raster.map Raster.code) ++ be1 t.profile.code ++ be1 t.divisor ++
  t.areas.flatMap (fun a => be8 a.base ++ be8 a.length) ++ be4 t.pageCount ++
  (s.heldContexts f).flatMap fun c => be1 c.val

/-- R191: the section a code names. -/
def statusSection (s : State) (f : FeedNo) (code : Nat) : Option Bytes :=
  if code = 0 then some (progressBody s f)
  else if code = 1 then some (compositionBody s f)
  else if code = 2 then some (areasBody s f)
  else none

/-- TAKE STATUS (R104). -/
def takeStatusStep (s : State) (b : Bytes) : State × Answer :=
  onFeed s b fun f =>
    match statusSection s f (fieldNat b 1 1) with
    | some body => (s, .done body)
    | none => (s, .refuse .badArgument)

/-! ## FLUSH INDEX (R99) -/

/-- R99: how the open page's snapshot was taken (assumption 17). -/
def SnapResult.code : SnapResult → Nat
  | .new => 0
  | .rebuilt => 1
  | .owed => 2

/-- R99: an owed waiting page is retried, then trigger (c) acts on the open page. -/
def State.flushIndex (s : State) (f : FeedNo) : SnapResult × State :=
  (if (s.take f).page.waiting.isSome then (s.snapshot f .waiting).2 else s).snapshot f .opened

/-- FLUSH INDEX (R99). -/
def flushIndexStep (s : State) (b : Bytes) : State × Answer :=
  onFeed s b fun f =>
    if s.recording f then ((s.flushIndex f).2, .done (be1 (s.flushIndex f).1.code))
    else (s, .refuse .refusedState)

/-! ## The requests -/

/-- ARM TAKE (R81, R82). -/
def execArmTake (t : Nat) (s : State) : Host.Outcome State Fault Refusal := carryOut 0x20 t s armTakeStep

/-- STOP TAKE (R84). -/
def execStopTake (t : Nat) (s : State) : Host.Outcome State Fault Refusal := carryOut 0x21 t s stopTakeStep

/-- ABORT TAKE (R88). -/
def execAbortTake (t : Nat) (s : State) : Host.Outcome State Fault Refusal := carryOut 0x22 t s abortTakeStep

/-- RELEASE TAKE (R91). -/
def execReleaseTake (t : Nat) (s : State) : Host.Outcome State Fault Refusal := carryOut 0x23 t s releaseTakeStep

/-- TAKE STATUS (R104). -/
def execTakeStatus (t : Nat) (s : State) : Host.Outcome State Fault Refusal := carryOut 0x24 t s takeStatusStep

/-- FLUSH INDEX (R99). -/
def execFlushIndex (t : Nat) (s : State) : Host.Outcome State Fault Refusal := carryOut 0x25 t s flushIndexStep

end Sys2Proof.Machine
end

