-- ==== Sys2Proof/Machine/StoreRequests.lean ====
section
/-! DEFINITION. The store port's requests: SET STORE, STORE STATUS, RESET STORE (R131, R144, R147). -/

namespace Sys2Proof.Machine

/-! ## SET STORE (R131) -/

/-- R131: the high water and the timeout clamped. -/
def StoreSettings.clamped (v : StoreSettings) : StoreSettings :=
  { v with highWater := clamp 16 64 v.highWater, timeout := clamp 1 10000 v.timeout }

/-- R131: the store port's settings replaced. -/
def State.setStoreTo (s : State) (v : StoreSettings) : State := { s with store := { s.store with settings := v } }

/-- SET STORE (R131): each lane then chooses (R134). -/
def setStoreStep (s : State) (b : Bytes) : State × Answer :=
  match parseStore b with
  | none => (s, .refuse .badArgument)
  | some v => ((s.setStoreTo v.clamped).arbitrate, .set (v.clamped != v))

/-! ## STORE STATUS (R147; assumption 16) -/

/-- The classes, in the order that codes them (R191). -/
def allClasses : List StoreClass := [.index, .essence, .browse]

/-- R131, R191: the six settings in a reply: sets and codes in 1 byte, the two numeric settings in 2 (assumption 16). -/
def StoreSettings.report (v : StoreSettings) : Bytes :=
  be1 v.indexLanes.toNat ++ be1 v.essenceLanes.toNat ++ be1 v.browseLanes.toNat ++ be1 v.floor.code ++
  be2 v.highWater ++ be2 v.timeout

/-- A subject's 8 bytes (R191). -/
def Subject.bytes : Subject → Bytes
  | .index page _ _ => be4 page ++ beOpt 4 none
  | .essence ordinal _ => be4 ordinal ++ beOpt 4 none
  | .browse ordinal slot => be4 ordinal ++ be4 slot

/-- R145: whether the port is settling, and when settling ends. Before STARTED no end is fixed. -/
def Settling.bytes : Settling → Bytes
  | .starting => beFlag true ++ beOpt 8 none
  | .until e => beFlag true ++ be8 e
  | .ended => beFlag false ++ beOpt 8 none

/-- R191: the classes held, and the reasons. -/
def StorePort.heldBytes (p : StorePort) : Bytes :=
  be1 ((allClasses.map fun c => if p.held c then 2 ^ c.code else 0).sum) ++
  be1 ((if allClasses.any p.floorHolds then 1 else 0) + (if allClasses.any p.waterHolds then 2 else 0))

/-- R147: a queue's length, and the take and subject of its oldest request. -/
def queueReport (q : List Request) : Bytes :=
  be1 q.length ++
  (match q with
   | [] => beOpt 1 none ++ beOpt 8 none
   | r :: _ => be1 r.take.val ++ r.subject.bytes)

/-- R147, R191: the time to a deadline, or with bit 63 set the time since it passed. -/
def deadlineBytes (now deadline : Nat) (passed : Bool) : Bytes :=
  if passed || decide (deadline < now) then be8 (2 ^ 63 + (now - deadline)) else be8 (deadline - now)

/-- R147: what a tag's request reports. -/
def Issued.report (i : Issued) (now : Nat) (passed : Bool) : Bytes :=
  be1 i.request.cls.code ++ be1 i.request.take.val ++ i.request.subject.bytes ++ be1 i.epoch.toNat ++
  deadlineBytes now i.deadline passed

/-- R147: one tag, its state coded in R130's order; a free tag has no request. -/
def Tag.report (now : Nat) : Tag → Bytes
  | .free => be1 0 ++ beOpt 19 none
  | .inFlight i => be1 1 ++ i.report now false
  | .quarantined i => be1 2 ++ i.report now true

/-- R146: the port's counts, in the order of R146's table, each lane count for both lanes before the next count (DESIGN
CHOICE: assumption 16). -/
def StorePort.countBytes (p : StorePort) : Bytes :=
  let ls := p.lanes.toList
  (ls.map (·.issued) ++ ls.map (·.ok) ++ ls.map (·.failed) ++ ls.map (·.timeout) ++ ls.map (·.late) ++
   [p.stray, p.withdrawnIndex, p.withdrawnEssence, p.withdrawnBrowse, p.resets, p.resetRequests]).flatMap beWord

/-- R124: one context's holder and position, and whether its holder is busy; a free context has no holder, no position
and no busy (DESIGN CHOICE: assumption 16). -/
def State.contextReport (s : State) (c : Context) : Bytes :=
  match c with
  | none => beOpt 1 none ++ beOpt 1 none ++ beFlag false
  | some (f, p) => be1 f.val ++ be1 p ++ beFlag (s.take f).copy.busy

/-- R124: the browse totals, in the order of R124's table. -/
def BrowseTotals.bytes (b : BrowseTotals) : Bytes :=
  [b.scheduled, b.skippedCollide, b.skippedBacklog, b.written, b.lostFailed, b.lostTimeout, b.lostReset,
   b.withdrawn].flatMap beWord

/-- R124: one take's browse state. -/
def BrowseState.report (b : BrowseState) : Bytes :=
  be1 b.status.code ++ beOpt 1 (b.reason.map BrowseEnd.code) ++ be4 b.slotBytes ++ be8 b.slotCount ++
  beOpt 4 (b.outstanding.map Prod.fst) ++ beOpt 4 (b.outstanding.map Prod.snd) ++ b.totals.bytes

/-- R147: STORE STATUS's body. -/
def storeStatusBody (s : State) : Bytes :=
  let p := s.store
  p.settings.report ++ be1 p.epoch.toNat ++ p.settling.bytes ++ p.heldBytes ++
  (allClasses.flatMap fun c => queueReport (p.queue c)) ++
  (p.lanes.toList.flatMap fun l => l.tags.toList.flatMap (Tag.report s.time)) ++
  (p.lanes.toList.flatMap fun l => beFlag l.stalled) ++ p.countBytes ++
  be4 s.cells.freeCount ++ be4 s.cells.freeLow ++
  (s.pool.contexts.toList.flatMap s.contextReport) ++
  (List.finRange 8).flatMap fun f => (s.take f).copy.report

/-- STORE STATUS (R147). -/
def storeStatusStep (s : State) (_b : Bytes) : State × Answer := (s, .done (storeStatusBody s))

/-! ## RESET STORE (R144) -/

/-- RESET STORE: the reply gives the number of requests ended and the new epoch (assumption 17). -/
def resetStoreStep (s : State) (_b : Bytes) : State × Answer :=
  (s.resetStorePort, .done (be1 s.store.bound.length ++ be1 (s.store.epoch + 1).toNat))

/-! ## The requests -/

/-- SET STORE (R131). -/
def execSetStore (t : Nat) (s : State) : Host.Outcome State Fault Refusal := carryOut 0x50 t s setStoreStep

/-- STORE STATUS (R147). -/
def execStoreStatus (t : Nat) (s : State) : Host.Outcome State Fault Refusal := carryOut 0x51 t s storeStatusStep

/-- RESET STORE (R144). -/
def execResetStore (t : Nat) (s : State) : Host.Outcome State Fault Refusal := carryOut 0x52 t s resetStoreStep

end Sys2Proof.Machine
end

