-- ==== Sys2Proof/Machine/NoticeCommands.lean ====
section
/-! DEFINITION. The link's own requests: HELLO (R180), READ NOTICES, CLEAR NOTICES, SET NOTICE ENABLES (R179). -/

namespace Sys2Proof.Machine

/-! ## HELLO (R180) -/

/-- R180, R191: the 19 bytes of a HELLO body. -/
def helloBody (s : State) : Bytes :=
  [0x6C, 1] ++ beFlag s.settings.started ++ [s.settings.cause.code] ++ be1 s.settings.feeds.code ++
  be1 s.settings.monitor.code ++ be1 s.settings.store.code ++ be8 s.time ++ be2 s.link.early.toNat ++
  be2 s.link.short.toNat

/-- HELLO (R180), carried out: RESET_SEEN has cleared when it was dispatched (`State.dispatchHello`). -/
def helloStep (s : State) (_b : Bytes) : State × Answer := (s, .done (helloBody s))

/-! ## Notices (R179) -/

/-- The notices of `a` that `b` does not name. -/
def NoticeSet.minus (a b : NoticeSet) : NoticeSet :=
  { feeds := Vector.ofFn fun (i : Fin 8) => a.feeds[i] &&& ~~~ b.feeds[i], device := a.device &&& ~~~ b.device }

/-- READ NOTICES (R179): the pending set, then the enable set. -/
def readNoticesStep (s : State) (_b : Bytes) : State × Answer :=
  (s, .done (s.link.pending.bytes ++ s.link.enables.bytes))

/-- CLEAR NOTICES (R179). -/
def clearNoticesStep (s : State) (b : Bytes) : State × Answer :=
  match parseNotices b with
  | none => (s, .refuse .badArgument)
  | some n =>
    ({ s with link := { s.link with pending := s.link.pending.minus n } }, .done (s.link.pending.minus n).bytes)

/-- SET NOTICE ENABLES (R179). -/
def setNoticeEnablesStep (s : State) (b : Bytes) : State × Answer :=
  match parseNotices b with
  | none => (s, .refuse .badArgument)
  | some n => ({ s with link := { s.link with enables := n } }, .set false)

/-! ## The requests -/

/-- HELLO (R180). -/
def execHello (t : Nat) (s : State) : Host.Outcome State Fault Refusal := carryOut 0x01 t s helloStep

/-- READ NOTICES (R179). -/
def execReadNotices (t : Nat) (s : State) : Host.Outcome State Fault Refusal := carryOut 0x40 t s readNoticesStep

/-- CLEAR NOTICES (R179). -/
def execClearNotices (t : Nat) (s : State) : Host.Outcome State Fault Refusal := carryOut 0x41 t s clearNoticesStep

/-- SET NOTICE ENABLES (R179). -/
def execSetNoticeEnables (t : Nat) (s : State) : Host.Outcome State Fault Refusal :=
  carryOut 0x42 t s setNoticeEnablesStep

end Sys2Proof.Machine
end

