-- ==== Sys2Proof/Machine/Settings.lean ====
section
/-! DEFINITION. The settings store (chapter 10): the regions' bytes, REGION_READ, SAVE SETTINGS, REGION_WRITE. -/

namespace Sys2Proof.Machine

/-! ## The regions (R182, R192) -/

/-- R182: a region's flash offset. -/
def Region.offset : Region → Nat
  | .feeds => 0
  | .monitor => 4096
  | .store => 8192

/-- R182: a region's length. -/
def Region.length : Region → Nat
  | .feeds => 256
  | .monitor => 1024
  | .store => 64

/-- R192: a region's mark, layout revision 1. -/
def Region.mark : Region → Nat
  | .feeds => 0xC6A10001
  | .monitor => 0xC6A20001
  | .store => 0xC6A30001

/-- Bytes of an erase sector (R182). -/
abbrev sectorBytes : Nat := 4096

/-- R182: the sum of a byte string's big-endian 32-bit words, mod 2^32; `fuel` bounds their number. -/
def wordTotal : Nat → Bytes → Word
  | 0, _ => 0
  | _, [] => 0
  | n + 1, bs => BitVec.ofNat 32 (fieldNat bs 0 4) + wordTotal n (bs.drop 4)

/-- The 32-bit sum of a region's words. -/
def regionSum (bs : Bytes) : Word := wordTotal 256 bs

/-- R186, R192: a region's bytes: its mark, its settings, zero bytes, and the check word that makes its sum 0. -/
def Region.image (r : Region) (settings : Bytes) : Bytes :=
  let body := fitTo 0 (r.length - 4) (be4 r.mark ++ settings)
  body ++ beWord (0 - regionSum body)

/-- R185 tests 1 and 2. -/
def Region.passes (r : Region) (bs : Bytes) : Bool := fieldNat bs 0 4 == r.mark && regionSum bs == 0

/-- R192: no byte between the settings' end and the check word is set. -/
def Region.restZero (r : Region) (bs : Bytes) (settingsEnd : Nat) : Bool :=
  (field bs settingsEnd (r.length - 4 - settingsEnd)).all (· == 0)

/-- R182: the bytes a region's read gives: 0xFF throughout when the flash does not answer. -/
def Region.read (r : Region) (flash : List Host.Cell) (answers : Bool) : Bytes :=
  if answers then Memory.read flashByte flash r.offset r.length else List.replicate r.length 0xFF

/-! ## What each region holds (R183) -/

/-- The settings of the FEEDS region. -/
structure FeedsSettings where
  entries : Vector FeedEntry 8
  address : Word
  port    : Nat
  deriving DecidableEq, Repr

/-- The settings of the MONITOR region. -/
structure MonitorSettings where
  args    : MonitorArgs
  actions : Vector (Vector (Select × Actions) 17) 8
  enables : NoticeSet
  deriving DecidableEq, Repr

/-- A list of eight as a vector. -/
def eight (l : List α) : Option (Vector α 8) :=
  if h : l.length = 8 then some ⟨l.toArray, by simpa using h⟩ else none

/-- R185 test 4, FEEDS: two enabled entries share a stream tag, or an enabled entry has no path. -/
def entriesClash (v : Vector FeedEntry 8) : Bool :=
  (List.finRange 8).any fun i =>
    v[i].enable && (v[i].paths == 0 ||
      (List.finRange 8).any fun j => j != i && v[j].enable && v[j].tag == v[i].tag)

/-- R185, R192: FEEDS's settings, when the region passes all four tests. -/
def parseFeeds (bs : Bytes) : Option FeedsSettings :=
  if Region.feeds.passes bs && Region.feeds.restZero bs 106 then
    match ((List.range 8).mapM fun i => parseEntry (field bs (4 + 12 * i) 12)).bind eight with
    | none => none
    | some v =>
      if v.toList.all (fun e => e.clamped == e) && !entriesClash v && fieldNat bs 104 2 != 0 then
        some { entries := v, address := BitVec.ofNat 32 (fieldNat bs 100 4), port := fieldNat bs 104 2 }
      else none
  else none

/-- R185, R192: MONITOR's settings, when the region passes all four tests. -/
def parseMonitorRegion (bs : Bytes) : Option MonitorSettings :=
  if Region.monitor.passes bs && Region.monitor.restZero bs 224 then
    match parseMonitor (field bs 4 51),
        ((List.range 8).mapM fun i => parseConditions (field bs (55 + 17 * i) 17)).bind eight,
        parseNotices (field bs 191 33) with
    | some a, some v, some n =>
      if a.clamped == a && v.toList.all (fun x => !dropMisplaced x) then
        some { args := a, actions := v, enables := n }
      else none
    | _, _, _ => none
  else none

/-- R185, R192: STORE's settings, when the region passes all four tests. -/
def parseStoreRegion (bs : Bytes) : Option StoreSettings :=
  if Region.store.passes bs && Region.store.restZero bs 11 then
    match parseStore (field bs 4 7) with
    | some v => if v.clamped == v then some v else none
    | none => none
  else none

/-! ## Loading (R185) -/

/-- The status of a judged region. -/
def RegionStatus.ofLoad (loaded : Bool) : RegionStatus := if loaded then .loaded else .defaulted

/-- R185: FEEDS's settings replace the feed table and the line port's settings. -/
def State.loadFeeds (s : State) (v : FeedsSettings) : State :=
  { s with
    feeds := Vector.ofFn fun (i : Fin 8) => { s.feeds[i] with entry := v.entries[i] }
    line := { s.line with address := v.address, udpPort := v.port } }

/-- R185: MONITOR's settings replace the monitor's and the notice enable set. -/
def State.loadMonitor (s : State) (v : MonitorSettings) : State :=
  let s := s.setMonitorTo v.args
  { s with
    feeds := Vector.ofFn fun (i : Fin 8) => { s.feeds[i] with health := (s.feeds[i]).health.withActions v.actions[i] }
    link := { s.link with enables := v.enables } }

/-- R184, R145: the STORE region has been judged: STARTED is set and settling runs for one store timeout. -/
def State.setStarted (s : State) : State :=
  { s with
    settings := { s.settings with started := true }
    store := { s.store with settling := .until (s.time + s.store.settings.timeout * 1000) } }

/-- R185: the FEEDS region's bytes judged. -/
def State.judgeFeeds (s : State) (bs : Bytes) : State :=
  let v := parseFeeds bs
  let s := match v with | some v => s.loadFeeds v | none => s
  { s with settings := { s.settings with feeds := .ofLoad v.isSome } }

/-- R185: the MONITOR region's bytes judged. -/
def State.judgeMonitor (s : State) (bs : Bytes) : State :=
  let v := parseMonitorRegion bs
  let s := match v with | some v => s.loadMonitor v | none => s
  { s with settings := { s.settings with monitor := .ofLoad v.isSome } }

/-- R185: the STORE region's bytes judged, which ends start-up. -/
def State.judgeStore (s : State) (bs : Bytes) : State :=
  let v := parseStoreRegion bs
  let s := match v with | some v => s.setStoreTo v | none => s
  { s with settings := { s.settings with store := .ofLoad v.isSome } }.setStarted

/-- R184: the region start-up reads next; none once start-up has finished. -/
def SettingsStore.nextRegion (v : SettingsStore) : Option Region :=
  if v.started then none
  else if v.feeds = .notRead then some .feeds
  else if v.monitor = .notRead then some .monitor
  else some .store

/-- REGION_READ (R185). -/
def execRegionRead (t : Nat) (answers : Bool) (s : State) : Host.Outcome State Fault Refusal :=
  let s := s.start t
  match s.settings.nextRegion with
  | none => .next s
  | some .feeds => .next (s.judgeFeeds (Region.feeds.read s.settings.flash answers))
  | some .monitor => .next (s.judgeMonitor (Region.monitor.read s.settings.flash answers))
  | some .store => .next (s.judgeStore (Region.store.read s.settings.flash answers))

/-! ## Saving (R186) -/

/-- R192: the FEEDS region's settings in force. -/
def State.feedsSettings (s : State) : Bytes :=
  (s.feeds.toList.flatMap fun x => x.entry.bytes) ++ beWord s.line.address ++ be2 s.line.udpPort

/-- R192: a feed's part of the SET MONITOR body. -/
def Health.settingsBytes (h : Health) : Bytes := be2 h.loss ++ be2 h.late ++ be1 h.patch ++ beFlag h.autoclear

/-- R192: the MONITOR region's settings in force. -/
def State.monitorSettings (s : State) : Bytes :=
  be2 s.monitor.interval ++ be1 s.monitor.filter ++ (s.feeds.toList.flatMap fun x => x.health.settingsBytes) ++
  (s.feeds.toList.flatMap fun x => x.health.conds.toList.flatMap Condition.byte) ++ s.link.enables.bytes

/-- OPEN (R189): the step a save stands at in a region it begins (assumption 5). -/
def FreeValues.nextStep (v : FreeValues) : Fin 3 × FreeValues :=
  (Config.saveStep v.count, { v with count := v.count + 1 })

/-- R186: the snapshot is fixed and the save starts with FEEDS. -/
def State.startSave (s : State) : State :=
  let step := s.free.nextStep
  { s with
    free := step.2
    settings := { s.settings with save := some {
      feeds := Region.feeds.image s.feedsSettings
      monitor := Region.monitor.image s.monitorSettings
      store := Region.store.image s.store.settings.bytes
      region := .feeds
      step := step.1
      verified := true } } }

/-- SAVE SETTINGS (R186). -/
def saveSettingsStep (s : State) (_b : Bytes) : State × Answer :=
  if s.saveBusy then (s, .refuse .refusedBusy) else (s.startSave, .set false)

/-- SAVE SETTINGS (R186). -/
def execSaveSettings (t : Nat) (s : State) : Host.Outcome State Fault Refusal := carryOut 0x60 t s saveSettingsStep

/-! ## Writing a region (R187) -/

/-- The snapshot's bytes of the region being written. -/
def Save.image (v : Save) : Bytes :=
  match v.region with
  | .feeds => v.feeds
  | .monitor => v.monitor
  | .store => v.store

/-- A region's sector erased, its region then holding `bs`. -/
def Region.rewrite (r : Region) (flash : List Host.Cell) (bs : Bytes) : List Host.Cell :=
  Memory.write flashByte flash r.offset (fitTo flashByte sectorBytes (fitTo flashByte r.length bs))

/-- R187: the region that follows. -/
def Region.next : Region → Option Region
  | .feeds => some .monitor
  | .monitor => some .store
  | .store => none

/-- R187: the save goes on to the next region, or completes: SAVE_BUSY clears and its notice becomes pending. -/
def State.saveOn (s : State) (v : Save) (verified : Bool) : State :=
  match v.region.next with
  | some r =>
    let step := s.free.nextStep
    { s with
      free := step.2
      settings := { s.settings with save := some { v with region := r, step := step.1, verified := verified } } }
  | none =>
    { s with settings := { s.settings with save := none } }.raiseDevice
      (if verified then noticeSaved else noticeSaveFailed)

/-- REGION_WRITE (R187): the region's erase, program and compare finish; the region is verified when the flash
answered and the region holds the snapshot. With no save in flight nothing is written (assumption 2). -/
def execRegionWrite (t : Nat) (answers : Bool) (held : Option Bytes) (s : State) :
    Host.Outcome State Fault Refusal :=
  let s := s.start t
  match s.settings.save with
  | none => .next s
  | some v =>
    let bs := fitTo flashByte v.region.length (held.getD v.image)
    let s := { s with settings := { s.settings with flash := v.region.rewrite s.settings.flash bs } }
    .next (s.saveOn v (v.verified && answers && bs == v.image))

end Sys2Proof.Machine
end

