-- ==== Sys2Proof/Machine/Reset.lean ====
section
/-! DEFINITION. The resets: POWER_ON, RESET_LINE and RESET (R181, R184, R188), with the exchange each may end
(R170). -/

namespace Sys2Proof.Machine

/-! ## A save cut off (R188) -/

/-- OPEN (R188): the erased or part-programmed image of the affected region. It fails test 1 or test 2 of R185: an
open image that would pass both is taken as erased (assumption 5). -/
def cutImage (r : Region) (n : Nat) : Bytes :=
  let bs := (List.range r.length).map (Config.cutByte n)
  if r.passes bs then List.replicate r.length flashByte else bs

/-- R188: the flash a reset leaves. -/
def SettingsStore.flashAtReset (v : SettingsStore) (n : Nat) : List Host.Cell :=
  match v.save with
  | none => v.flash
  | some w =>
    if w.step = 2 then w.region.rewrite v.flash w.image else w.region.rewrite v.flash (cutImage w.region n)

/-! ## The exchange a reset ends (R170) -/

/-- R170: the bits clocked out before the reset come from the frame fixed at the falling edge of select; the bits
after it are zero. -/
def State.cutOut (s : State) : Option ExchangeCut → Bytes
  | none => []
  | some c => clockedOut (clockedOut s.frameOut c.before) (c.before + c.after)

/-! ## Reset -/

/-- R184: every block takes its after-reset state and start-up begins. The DRAM, the contexts' bytes and the
flash are not cleared; the waiting commands wait on. -/
def State.resetPart (s : State) (cause : ResetCause) (cut : Option ExchangeCut) : State :=
  { State.afterReset cause s.cells.bytes s.pool.bytes (s.settings.flashAtReset s.free.count)
      { s.free with count := s.free.count + 1 } s.pending with
    out := { writes := [], miso := s.cutOut cut } }

/-- POWER_ON (R184). -/
def execPowerOn (cut : Option ExchangeCut) (s : State) : Host.Outcome State Fault Refusal :=
  .next (s.resetPart .powerOn cut)

/-- RESET_LINE (R184). -/
def execResetLine (cut : Option ExchangeCut) (s : State) : Host.Outcome State Fault Refusal :=
  .next (s.resetPart .resetLine cut)

/-- RESET (R181): carried out once start-up has finished; its reply is never built. -/
def execReset (t : Nat) (cut : Option ExchangeCut) (s : State) : Host.Outcome State Fault Refusal :=
  let s := s.start t
  match s.link.processing with
  | none => .next s
  | some req =>
    if requestCode req = 0x7F then
      match s.judgeRequest req with
      | some o => .next (s.answer 0x7F (.refuse o))
      | none => .next (s.resetPart .resetRequest cut)
    else .next s

end Sys2Proof.Machine
end

