-- ==== Sys2Proof/Machine/Dispatch.lean ====
section
/-! DEFINITION. One arm per command of the table. -/

namespace Sys2Proof.Machine

def exec (i : Instr) (s : State) : Host.Outcome State Fault Refusal :=
  match i with
  | .powerOn cut => Sys2Proof.Machine.execPowerOn cut s
  | .resetLine cut => Sys2Proof.Machine.execResetLine cut s
  | .regionRead t answers => Sys2Proof.Machine.execRegionRead t answers s
  | .ethernetFrame t frame => Sys2Proof.Machine.execEthernetFrame t frame s
  | .deadlineExpiry t feed => Sys2Proof.Machine.execDeadlineExpiry t feed s
  | .publishTimerExpiry t feed => Sys2Proof.Machine.execPublishTimerExpiry t feed s
  | .completion t lane epoch tag result pad => Sys2Proof.Machine.execCompletion t lane epoch tag result pad s
  | .storeTimeout t lane tag => Sys2Proof.Machine.execStoreTimeout t lane tag s
  | .settlingEnd t => Sys2Proof.Machine.execSettlingEnd t s
  | .intervalEnd t => Sys2Proof.Machine.execIntervalEnd t s
  | .spiExchange t bits mosi => Sys2Proof.Machine.execSpiExchange t bits mosi s
  | .nextPart t => Sys2Proof.Machine.execNextPart t s
  | .hello t => Sys2Proof.Machine.execHello t s
  | .setFeed t => Sys2Proof.Machine.execSetFeed t s
  | .readFeed t => Sys2Proof.Machine.execReadFeed t s
  | .feedStatus t => Sys2Proof.Machine.execFeedStatus t s
  | .armTake t => Sys2Proof.Machine.execArmTake t s
  | .stopTake t => Sys2Proof.Machine.execStopTake t s
  | .abortTake t => Sys2Proof.Machine.execAbortTake t s
  | .releaseTake t => Sys2Proof.Machine.execReleaseTake t s
  | .takeStatus t => Sys2Proof.Machine.execTakeStatus t s
  | .flushIndex t => Sys2Proof.Machine.execFlushIndex t s
  | .setMonitor t => Sys2Proof.Machine.execSetMonitor t s
  | .setActions t => Sys2Proof.Machine.execSetActions t s
  | .readConditions t => Sys2Proof.Machine.execReadConditions t s
  | .clearConditions t => Sys2Proof.Machine.execClearConditions t s
  | .readNotices t => Sys2Proof.Machine.execReadNotices t s
  | .clearNotices t => Sys2Proof.Machine.execClearNotices t s
  | .setNoticeEnables t => Sys2Proof.Machine.execSetNoticeEnables t s
  | .setStore t => Sys2Proof.Machine.execSetStore t s
  | .storeStatus t => Sys2Proof.Machine.execStoreStatus t s
  | .resetStore t => Sys2Proof.Machine.execResetStore t s
  | .saveSettings t => Sys2Proof.Machine.execSaveSettings t s
  | .regionWrite t answers held => Sys2Proof.Machine.execRegionWrite t answers held s
  | .reset t cut => Sys2Proof.Machine.execReset t cut s

end Sys2Proof.Machine
end

