-- ==== Sys2Proof/Safety.lean ====
section
/-! DEFINITION. The terms statements are made in: a request that reaches its owning block, the part with a reply in
place, and what holds of a sound state. -/

namespace Sys2Proof.Machine

/-! ## Requests -/

/-- R172: a request of this code and body is in processing, and no step before dispatch decides it. -/
def State.dispatches (s : State) (code : Byte) (body : Bytes) : Bool :=
  match s.link.processing with
  | none => false
  | some req =>
    (s.settings.started || code == 0x01) && requestCode req == code && requestBody req == body &&
    decide (requestLength req ≤ 126) && bodyFits code (requestLength req) == some true

/-- R172: the part with a one-part reply as its current reply: no request in processing and no part held. -/
def State.withReply (s : State) (r : Reply) : State :=
  { s with link := { s.link with reply := r, parts := [], processing := none } }

/-- A reply of outcome DONE. -/
def Reply.done (code : Byte) (clamped : Bool) (body : Bytes) : Reply :=
  { code := code, outcome := .done, clamped := clamped, more := false, body := body }

/-- A refusal's reply: no body and no flags (R172). -/
def Reply.refused (code : Byte) (o : ReplyCode) : Reply :=
  { code := code, outcome := o, clamped := false, more := false, body := [] }

/-- Two states differ at most in the control link, the clock and what was sent. -/
def State.sameButLink (s s' : State) : Prop :=
  s'.line = s.line ∧ s'.intake = s.intake ∧ s'.feeds = s.feeds ∧ s'.cells = s.cells ∧ s'.pool = s.pool ∧
  s'.store = s.store ∧ s'.monitor = s.monitor ∧ s'.settings = s.settings ∧ s'.free = s.free ∧
  s'.pending = s.pending

/-- Every feed but `f` is as it was. -/
def State.otherFeedsSame (s s' : State) (f : FeedNo) : Prop := ∀ g, g ≠ f → s'.feed g = s.feed g

/-- The three commands that reset the part, with the cause HELLO then reports (R180, R181, R184). RESET resets it
when it is carried out. -/
def restarts (c : Instr) (s : State) : Option ResetCause :=
  match c with
  | .powerOn _ => some .powerOn
  | .resetLine _ => some .resetLine
  | .reset _ _ => if s.settings.started && s.dispatches 0x7F [] then some .resetRequest else none
  | _ => none

/-- A packet of feed `f` reaches path accounting (R6 to R8): the take lets it pass and its path is enabled. -/
def State.reachesPath (s : State) (frame : Bytes) (p : Packet) (f : FeedNo) : Prop :=
  s.settings.started = true ∧
  (∃ u, judgeFrame s.line.address s.line.udpPort frame = .accepted u ∧ parsePacket u = some p) ∧
  s.feedOfTag p.tag = some f ∧ ((s.take f).state = .armed ∨ (s.take f).state = .recording) ∧
  (s.feed f).entry.pathEnabled p.path = true

/-- The part once a packet of feed `f` has been accepted and counted on its path (R1, R10). -/
def State.counted (s : State) (p : Packet) (f : FeedNo) : State :=
  { s with line := { s.line with accepted := wrapAdd s.line.accepted 1 } }.onPath f p.path fun a => a.account p.seq

/-- The requests that only read state, with the code they answer and the body they give (R5, R104, R147, R164, R173,
R179); `none` where the request would be refused. -/
def reading (c : Instr) (s : State) (body : Bytes) : Option (Byte × Bytes) :=
  match c with
  | .readFeed _ => (feedOf (fieldNat body 0 1)).map fun f => (0x11, readFeedBody s f)
  | .feedStatus _ => (feedOf (fieldNat body 0 1)).map fun f => (0x12, feedStatusBody s f)
  | .takeStatus _ => (feedOf (fieldNat body 0 1)).bind fun f =>
      (statusSection s f (fieldNat body 1 1)).map fun b => (0x24, b)
  | .readConditions _ => (feedOf (fieldNat body 0 1)).map fun f => (0x32, conditionsBody s f)
  | .readNotices _ => some (0x40, s.link.pending.bytes ++ s.link.enables.bytes)
  | .storeStatus _ => some (0x51, storeStatusBody s)
  | _ => none

/-! ## Memories -/

/-- The three byte memories and the reference counts are in their canonical form. -/
def State.memoriesCanonical (s : State) : Prop :=
  Memory.wf ramByte s.cells.bytes ∧ sparseWf 0 s.cells.refs ∧ Memory.wf ramByte s.pool.bytes ∧
  Memory.wf flashByte s.settings.flash

/-- R42 to R44: the reference counts are a table, every cell is exactly one of free and held, the free list names
no cell twice, and the free count is its length. -/
def CellMem.sound (m : CellMem) : Prop :=
  sparseWf 0 m.refs ∧ (freeCells m.free).Nodup ∧ m.freeCount = (freeCells m.free).length ∧
  m.freeLow ≤ m.freeCount ∧ (∀ c, c < Config.cellCount → (c ∈ freeCells m.free ↔ m.count c = 0)) ∧
  ∀ c, Config.cellCount ≤ c → c ∉ freeCells m.free ∧ m.count c = 0

/-! ## Windows (R17, R18, R20, R22, R23, R39) -/

/-- A record's held fragments have distinct indexes below the declared count, in ascending order, and share no byte
(R17, R20). -/
def FrameRecord.sound (r : FrameRecord) : Prop :=
  r.held.Pairwise (fun x y => x.index < y.index) ∧ (∀ h ∈ r.held, h.index < r.declared) ∧
  r.held.Pairwise (fun x y => rangesShare x.offset x.length y.offset y.length = false)

/-- A window's records are sound and lie at rising distances 0..31 from its base, their deadlines never falling (R23);
it has none while its base is unset. -/
def Window.ordered (w : Window) : Prop :=
  match w.base with
  | none => w.records = []
  | some b =>
    w.records.Pairwise (fun x y => distance b x.frame < distance b y.frame ∧ x.deadline ≤ y.deadline) ∧
    ∀ r ∈ w.records, distance b r.frame < Config.windowSpan ∧ r.sound

/-- A feed's window at station time `now`: ordered, empty with its base unset while its take is not RECORDING, and no
deadline further off than the window depth (R22). -/
def Feed.windowSound (x : Feed) (now : Nat) : Prop :=
  x.window.ordered ∧ (x.take.state ≠ .recording → x.window.base = none ∧ x.window.records = []) ∧
  ∀ r ∈ x.window.records, r.deadline ≤ now + x.entry.depth * 1000

/-- Every feed's window is sound, and every take is IDLE until start-up has finished. -/
def State.windowsSound (s : State) : Prop :=
  (∀ f, (s.feed f).windowSound s.time) ∧ (s.settings.started = false → ∀ f, (s.take f).state = .idle)

/-! ## Holdings (R42 to R48, R50) -/

/-- The cells held for a feed: by its window's fragments and by its slice source table. -/
def Feed.holdings (x : Feed) : List Nat :=
  (x.window.records.flatMap fun r => heldCells r.held) ++ sourceCells x.take.comp.sources

/-- The requests of the store port: queued, in flight and quarantined. -/
def StorePort.requests (p : StorePort) : List Request :=
  p.indexQ ++ p.essenceQ ++ p.browseQ ++ p.bound.map (·.request)

/-- Every holding there is, a cell as often as it is held. -/
def State.holdings (s : State) : List Nat :=
  (s.feeds.toList.flatMap Feed.holdings) ++ s.store.requests.flatMap (·.holdings)

/-- A present entry of a slice source table (R50 to R52): at most 16 pieces that make up the slice, received at an
ordinal below the next. -/
def SourceEntry.sound (e : SourceEntry) (next : Nat) : Prop :=
  e.pieces.length ≤ 16 ∧ (e.pieces.map (·.length)).sum = e.length ∧ e.ordinal < next

/-- A take's slice source table: none in IDLE, one entry per slice of the raster in ARMED and RECORDING, every present
entry sound (R50, R52). -/
def Take.tableSound (t : Take) : Prop :=
  (t.state = .idle → t.comp.sources = []) ∧
  (t.state = .armed ∨ t.state = .recording → ∃ r, t.comp.raster = some r ∧ t.comp.sources.length = r.slices) ∧
  ∀ e, some e ∈ t.comp.sources → e.sound t.comp.nextOrdinal

/-- The cell memory is sound and every reference count is the number of the cell's holdings. -/
def State.cellsCounted (s : State) : Prop := s.cells.sound ∧ ∀ c, s.cells.count c = s.holdings.count c

/-- The cells are counted, with what keeps them so: sound windows and slice source tables. -/
def State.holdingsSound (s : State) : Prop :=
  s.cellsCounted ∧ s.windowsSound ∧ ∀ f, (s.take f).tableSound

/-! ## Takes that end at the store (R87, R89) -/

/-- What a take of feed `f` is after an essence or index write of it failed (R89, R38, R54, R92, R143): FAULTED with
this cause, nothing of it queued, its window and its slice source table empty, nothing owed, TAKE_ENDED pending; the
other feeds are as they were. -/
def State.faultedBy (s s' : State) (f : FeedNo) (cause : EndCause) : Prop :=
  (s'.take f).state = .faulted ∧ (s'.take f).endCause = some cause ∧ s'.store.anyQueued f = false ∧
  (s'.window f).records = [] ∧ (s'.window f).base = none ∧ (∀ e ∈ (s'.take f).comp.sources, e = none) ∧
  (s'.take f).timer = none ∧ (s'.take f).page.owed = false ∧ (s'.take f).page.waiting = none ∧
  (s'.take f).unwritten = (s.take f).unwritten ∧ (s'.link.pending.feeds[f]).getLsbD noticeTakeEnded = true ∧
  s'.anyFaulted = true ∧ s.otherFeedsSame s' f

/-- A write of the take is in flight on another tag than this one. -/
def State.fliesElse (s : State) (f : FeedNo) (lane : LaneNo) (tag : TagNo) : Prop :=
  ∃ (l : LaneNo) (g : TagNo) (j : Issued), (l, g) ≠ (lane, tag) ∧ s.store.tag l g = .inFlight j ∧ j.request.take = f

/-- A write of its own in flight, other than this tag's, or a snapshot still owed keeps a DRAINING take (R87). -/
def State.drainsOn (s : State) (f : FeedNo) (lane : LaneNo) (tag : TagNo) : Prop :=
  (s.take f).page.owed = true ∨ (s.take f).page.waiting ≠ none ∨ s.fliesElse f lane tag

/-- What of a take that is left when its last write has finished says: its state, its slice source table empty,
TAKE_ENDED pending, its holdings dropped (R54, R87, R88, R92). -/
def State.endedAs (s t : State) (f : FeedNo) (st : TakeState) : Prop :=
  (t.take f).state = st ∧ (∀ e ∈ (t.take f).comp.sources, e = none) ∧
  (t.link.pending.feeds[f]).getLsbD noticeTakeEnded = true ∧
  t.cells = s.cells.dropAll (sourceCells (s.take f).comp.sources)

/-! ## Snapshots and gather lists (R72, R95) -/

/-- The INDEX queue holds no request of this page of the take. -/
def StorePort.noneQueued (p : StorePort) (f : FeedNo) (page : Nat) : Prop := ∀ r ∈ p.indexQ, r.isPage f page = false

/-- No snapshot of the page can be taken: none of it is queued, and the INDEX queue is full or no cell is free (R95). -/
def State.snapshotStuck (s : State) (f : FeedNo) (page : Nat) : Prop :=
  s.store.noneQueued f page ∧ (16 ≤ s.store.indexQ.length ∨ s.cells.acquire = none)

/-- In `t` a new snapshot of these entries of the page has been taken into the cell acquired, and its request is queued
or in flight (R95, R97, R98). -/
def State.snapshotTaken (s t : State) (f : FeedNo) (page : Nat) (entries : List IndexEntry) (acc : Accumulator)
    (cell : Nat) (cells : CellMem) : Prop :=
  t.cells = cells.fill cell (pageImage (s.take f) page entries (acc.add (s.health f)) false s.time) ∧
  t.health f = (s.health f).autoclears ∧
  (t.take f).totals = { (s.take f).totals with queued := (s.take f).totals.queued + 1 } ∧
  ∃ r, (r ∈ t.store.indexQ ∨ ∃ i ∈ t.store.flying, i.request = r) ∧ r.take = f ∧
    r.subject = .index page entries.length cell ∧ r.address = (s.take f).index.base + 2048 * page ∧ r.length = 2048

/-- How many bytes a gather list element names (R72). -/
def Gather.length : Gather → Nat
  | .cells p => p.length
  | .filler _ l => l
  | .zeros l => l

/-! ## The store port (R129, R133) -/

/-- No queue holds more than its capacity. -/
def State.queuesFit (s : State) : Prop :=
  s.store.indexQ.length ≤ Config.indexCapacity ∧ s.store.essenceQ.length ≤ Config.essenceCapacity ∧
  s.store.browseQ.length ≤ Config.browseCapacity

/-- The take and page an INDEX request writes. -/
def Request.pageOf (r : Request) : Option (FeedNo × Nat) :=
  match r.subject with
  | .index page _ _ => some (r.take, page)
  | _ => none

/-- No two requests in flight or quarantined write the same page of the same take. -/
def State.oneWritePerPage (s : State) : Prop := (s.store.bound.filterMap fun i => i.request.pageOf).Nodup

/-- Some request of the take is queued, in flight or quarantined. -/
def StorePort.anyRequest (p : StorePort) (f : FeedNo) : Bool := p.anyQueued f || p.anyBound f

/-- The INDEX queue holds at most one request for any one page of any one take (R129). -/
def State.oneQueuedPerPage (s : State) : Prop := (s.store.indexQ.filterMap Request.pageOf).Nodup

/-! ## Settings (R2, R4, R131, R150, R157) -/

/-- A feed entry's settings are in their ranges, and an enabled entry has a path. -/
def FeedEntry.sound (e : FeedEntry) : Prop :=
  20 ≤ e.depth ∧ e.depth ≤ 2000 ∧ e.jump ≤ 1024 ∧ 40 ≤ e.publish ∧ e.publish ≤ 2000 ∧
  (e.enable = true → e.paths ≠ 0)

/-- A feed's monitor settings are in their ranges, and DROP stands in no condition numbered 8..16. -/
def Health.settingsSound (h : Health) : Prop :=
  1 ≤ h.loss ∧ h.loss ≤ 1000 ∧ 1 ≤ h.late ∧ h.late ≤ 65535 ∧ 1 ≤ h.patch ∧ h.patch ≤ 255 ∧
  ∀ i : Fin 17, 8 ≤ i.val → h.conds[i].actions.drop = false

/-- The store settings are in their ranges, and no lane set is empty. -/
def StoreSettings.sound (v : StoreSettings) : Prop :=
  v.indexLanes ≠ 0 ∧ v.essenceLanes ≠ 0 ∧ v.browseLanes ≠ 0 ∧ 16 ≤ v.highWater ∧ v.highWater ≤ 64 ∧
  1 ≤ v.timeout ∧ v.timeout ≤ 10000

/-- Every setting in force is one that a request can set, and the enabled entries' stream tags are distinct. -/
def State.settingsSound (s : State) : Prop :=
  (∀ f, (s.feed f).entry.sound) ∧ (∀ f, (s.health f).settingsSound) ∧ s.store.settings.sound ∧
  1 ≤ s.line.udpPort ∧ s.line.udpPort ≤ 65535 ∧ 10 ≤ s.monitor.interval ∧ s.monitor.interval ≤ 1000 ∧
  1 ≤ s.monitor.filter ∧ s.monitor.filter ≤ 8 ∧
  ∀ f g, f ≠ g → (s.feed f).entry.enable = true → (s.feed g).entry.enable = true →
    (s.feed f).entry.tag ≠ (s.feed g).entry.tag

/-- No two of a take's areas share a byte, and none shares a byte with an area of another take (R81); a take that is
IDLE has no claim. -/
def State.areasApart (s : State) : Prop :=
  ∀ f, (s.take f).state ≠ .idle →
    (s.take f).essence.shares (s.take f).browse = false ∧ (s.take f).essence.shares (s.take f).index = false ∧
    (s.take f).browse.shares (s.take f).index = false ∧
    ∀ g, g ≠ f → (s.take g).state ≠ .idle → ∀ a ∈ (s.take f).areas, ∀ b ∈ (s.take g).areas, a.shares b = false

/-! ## Takes (R80, R93, R100 to R102) -/

/-- The pages a take's buffer holds name no ordinal it has not released. -/
def PageBuffer.within (b : PageBuffer) (released : Nat) : Prop :=
  Config.pageEntries * b.openPage + b.entries.length ≤ released ∧
  ∀ w, b.waiting = some w → Config.pageEntries * w.page + w.entries.length ≤ released

/-- A store request is no INDEX request of feed `f` for entries it has not released. -/
def Request.within (r : Request) (f : FeedNo) (released : Nat) : Prop :=
  match r.subject with
  | .index page count _ => r.take = f → Config.pageEntries * page + count ≤ released
  | _ => True

/-- A take's fronts are in order, and its essence pending list rises from the frontier on. -/
def Take.frontsSound (t : Take) : Prop :=
  t.frontier ≤ t.covered ∧ t.covered ≤ t.comp.nextOrdinal ∧
  (∀ r ∈ t.completed, Config.pageEntries * r.1 + r.2 ≤ t.comp.nextOrdinal) ∧
  t.page.within t.comp.nextOrdinal ∧ t.unwritten.Pairwise (· < ·) ∧
  ∀ k ∈ t.unwritten, t.frontier ≤ k ∧ k < t.comp.nextOrdinal

/-- The requests a take has at the store port fit its state: none at all in IDLE and ARMED, and none queued outside
RECORDING and DRAINING. -/
def State.requestsSound (s : State) (f : FeedNo) : Prop :=
  ((s.take f).state = .idle ∨ (s.take f).state = .armed → s.store.anyRequest f = false) ∧
  ((s.take f).state ≠ .recording ∧ (s.take f).state ≠ .draining → s.store.anyQueued f = false) ∧
  (∀ r ∈ s.store.indexQ ++ s.store.essenceQ ++ s.store.browseQ, r.within f (s.take f).comp.nextOrdinal) ∧
  ∀ i ∈ s.store.bound, i.request.within f (s.take f).comp.nextOrdinal

/-- Every take's fronts and requests are sound. -/
def State.takesSound (s : State) : Prop := ∀ f, (s.take f).frontsSound ∧ s.requestsSound f

end Sys2Proof.Machine
end

