-- ==== Sys2Proof/Certificates/Slice0/Obligations.lean ====
section
/-! DEFINITION. The statements for the provers. `s.start t` is the part at the station time the command is taken
(assumption 1), `withReply` puts a one-part reply in place (R172). -/

open Sys2Proof Sys2Proof.Machine

/-! ## The step -/

/-- A step executes the command at the front of the queue on the part with the queue's rest. -/
def Obligations.StepRunsFrontCommand : Prop :=
  ∀ (c : Instr) (rest : List Instr) (s : State), s.pending = c :: rest → step s = exec c { s with pending := rest }

/-! ## Resets -/

/-- R184, R171, R189: every reset starts the link and the settings store over. -/
def Obligations.ResetRestartsLinkAndSettings : Prop :=
  ∀ (c : Instr) (s : State) (cause : ResetCause), restarts c s = some cause →
    ∃ t, exec c s = .next t ∧ t.time = 0 ∧ t.pending = s.pending ∧
      t.settings.started = false ∧ t.settings.cause = cause ∧ t.settings.feeds = .notRead ∧
      t.settings.monitor = .notRead ∧ t.settings.store = .notRead ∧ t.settings.save = none ∧
      t.link.reply = { code := 0x01, outcome := .done, clamped := false, more := false,
                       body := [0x6C, 1, 0, cause.code, 0, 0, 0] ++ List.replicate 12 0 } ∧
      t.link.processing = none ∧ t.link.parts = [] ∧ t.link.resetSeen = true ∧ t.link.early = 0 ∧
      t.link.short = 0 ∧ (∀ f : FeedNo, t.link.pending.feeds[f] = 0) ∧ t.link.pending.device = 0 ∧
      (∀ f : FeedNo, t.link.enables.feeds[f] = 1#19 <<< 17) ∧ t.link.enables.device = 0b1111 ∧
      t.ready = true ∧ t.attn = false

/-- R4, R9, R15, R34, R35, R41, R56, R77 to R79, R93, R100, R105, R106, R110, R124, R125, R148 to R151, R156, R165: what
every reset leaves of the line port, the feeds and their takes, the cells, the contexts, the store port and the monitor.
The DRAM and the contexts' bytes are not cleared. -/
def Obligations.ResetLeavesAfterResetState : Prop :=
  ∀ (c : Instr) (s : State) (cause : ResetCause), restarts c s = some cause →
    ∃ t, exec c s = .next t ∧
      t.line = { address := 0, udpPort := 5400, accepted := 0, heldOff := 0, corrupt := 0, foreign := 0 } ∧
      t.intake = { malformed := 0, unclaimed := 0 } ∧
      (∀ n, t.cells.count n = 0) ∧ freeCells t.cells.free = List.range 131072 ∧ t.cells.freeCount = 131072 ∧
      t.cells.freeLow = 131072 ∧ t.cellLow = false ∧ t.cells.bytes = s.cells.bytes ∧
      (∀ n : Fin 16, t.pool.contexts[n] = none) ∧ t.pool.bytes = s.pool.bytes ∧
      t.store.indexQ = [] ∧ t.store.essenceQ = [] ∧ t.store.browseQ = [] ∧ t.store.epoch = 0 ∧
      (∀ (l : LaneNo) (g : TagNo), t.store.tag l g = .free) ∧
      (∀ l : LaneNo, t.store.lanes[l].issued = 0 ∧ t.store.lanes[l].ok = 0 ∧ t.store.lanes[l].failed = 0 ∧
        t.store.lanes[l].timeout = 0 ∧ t.store.lanes[l].late = 0) ∧
      t.store.stray = 0 ∧ t.store.withdrawnIndex = 0 ∧ t.store.withdrawnEssence = 0 ∧
      t.store.withdrawnBrowse = 0 ∧ t.store.resets = 0 ∧ t.store.resetRequests = 0 ∧ t.storeStalled = false ∧
      t.store.settling ≠ .ended ∧
      t.store.settings = { indexLanes := 0b11, essenceLanes := 0b11, browseLanes := 0b10, floor := .all,
                           highWater := 48, timeout := 2000 } ∧
      t.monitor = { interval := 100, filter := 2, latest := none, nextEnd := 100000 } ∧
      ∀ f : FeedNo,
      (t.feed f).entry = { tag := 0, enable := false, paths := 0b1111, depth := 400, jump := 64, publish := 200 } ∧
      (t.feed f).intake.noTake = 0 ∧ (t.feed f).intake.pathDisabled = 0 ∧
      (∀ p : Fin 4, (t.feed f).intake.paths[p] =
        { last := none, intReceived := 0, intExpected := 0, received := 0, expected := 0, dropped := 0 }) ∧
      (t.window f).base = none ∧ (t.window f).records = [] ∧ (t.window f).mark = false ∧
      (t.window f).interval = { late := 0, overrun := 0, discontinuity := 0, cellShort := 0 } ∧
      (t.window f).totals = { late := 0, duplicate := 0, overlap := 0, mismatch := 0, cellShort := 0, overrun := 0,
                              discontinuity := 0, complete := 0, partials := 0, absent := 0, discarded := 0 } ∧
      (t.feed f).interval = { patched := 0, lost := 0, format := 0, backlog := 0, browseSkip := 0 } ∧
      (t.take f).comp.totals =
        { whole := 0, patched := 0, absent := 0, headerless := 0, malformed := 0, format := 0, backlog := 0, noCell := 0,
          substituted := 0, filler := 0, missing := 0, damaged := 0, split := 0, audioFilled := 0, essenceBytes := 0 } ∧
      (t.take f).page.acc = { warn := false, error := false, conds := 0 } ∧
      (t.take f).totals = { queued := 0, rebuilt := 0, owed := 0, writesOk := 0 } ∧
      (t.take f).copy.totals =
        { scheduled := 0, skippedCollide := 0, skippedBacklog := 0, written := 0, lostFailed := 0, lostTimeout := 0,
          lostReset := 0, withdrawn := 0 } ∧
      (t.take f).state = .idle ∧ (t.take f).endCause = none ∧ (t.take f).id = 0 ∧ (t.take f).profile = .none ∧
      (t.take f).divisor = 1 ∧ (t.take f).areas = [⟨0, 0⟩, ⟨0, 0⟩, ⟨0, 0⟩] ∧
      (t.take f).comp.raster = none ∧ (t.take f).comp.rate = none ∧ (t.take f).comp.nextOrdinal = 0 ∧
      (t.take f).comp.nextOffset = 0 ∧ (t.take f).comp.lastRef = none ∧ (t.take f).comp.sources = [] ∧
      (t.take f).page.openPage = 0 ∧ (t.take f).page.entries = [] ∧ (t.take f).page.captured = 0 ∧
      (t.take f).page.owed = false ∧ (t.take f).page.waiting = none ∧ (t.take f).page.finalPage = none ∧
      (t.take f).timer = none ∧ (t.take f).covered = 0 ∧ (t.take f).completed = [] ∧ (t.take f).unwritten = [] ∧
      (t.take f).frontier = 0 ∧
      (t.take f).copy.status = .inactive ∧ (t.take f).copy.reason = none ∧ (t.take f).copy.slotBytes = 0 ∧
      (t.take f).copy.slotCount = 0 ∧ (t.take f).copy.outstanding = none ∧
      (t.health f).loss = 50 ∧ (t.health f).late = 8 ∧ (t.health f).patch = 1 ∧ (t.health f).autoclear = true ∧
      (t.health f).evaluated = false ∧
      ∀ i : Fin 17, (t.health f).conds[i] =
        { run := 0, dynamic := false, latched := false, last := 0, select := .latched,
          actions := { notice := true, suspect := false, warn := i.val == 9 || i.val == 10,
                       error := i.val == 13 || i.val == 15 || i.val == 16, drop := false } }

/-- R188: a reset during a save leaves the flash as R188's table says: a region being compared holds the snapshot, a
region being erased or programmed fails its mark or its check, and the other regions read as before. -/
def Obligations.ResetDuringSaveLeavesRegions : Prop :=
  ∀ (c : Instr) (s : State) (cause : ResetCause) (v : Save), restarts c s = some cause → s.settings.save = some v →
    Memory.wf flashByte s.settings.flash → v.image.length = v.region.length →
    ∃ t, exec c s = .next t ∧ t.saveBusy = false ∧ t.link.pending = NoticeSet.empty ∧
      (v.step = 2 → v.region.read t.settings.flash true = v.image) ∧
      (v.step ≠ 2 → v.region.passes (v.region.read t.settings.flash true) = false) ∧
      ∀ r : Region, r ≠ v.region → r.read t.settings.flash true = r.read s.settings.flash true

/-! ## Start-up and saving -/

/-- R184, R185, R145: REGION_READ judges the next unread region. One that passes is LOADED and its settings replace those
in force; one that does not is DEFAULTED and no setting changes, and so is one read while the flash does not answer
(R182). After the third, STARTED is set and settling runs for one store timeout. What loads has its region's mark and
words that sum to 0, and every setting in the range of the request that sets it. -/
def Obligations.RegionReadLoadsOrDefaults : Prop :=
  (∀ (t : Nat) (answers : Bool) (s : State), s.settings.started = false → s.settings.feeds = .notRead →
    let bs := Region.feeds.read s.settings.flash answers
    (parseFeeds bs = none → exec (.regionRead t answers) s =
      .next { s.start t with settings := { s.settings with feeds := .defaulted } }) ∧
    ∀ v, parseFeeds bs = some v → exec (.regionRead t answers) s =
      .next { s.start t with
        feeds := Vector.ofFn fun (i : Fin 8) => { s.feeds[i] with entry := v.entries[i] }
        line := { s.line with address := v.address, udpPort := v.port }
        settings := { s.settings with feeds := .loaded } }) ∧
  (∀ (t : Nat) (answers : Bool) (s : State), s.settings.started = false → s.settings.feeds ≠ .notRead →
    s.settings.monitor = .notRead →
    let bs := Region.monitor.read s.settings.flash answers
    (parseMonitorRegion bs = none → exec (.regionRead t answers) s =
      .next { s.start t with settings := { s.settings with monitor := .defaulted } }) ∧
    ∀ v, parseMonitorRegion bs = some v → ∃ n, exec (.regionRead t answers) s =
        .next { s.start t with
          monitor := { interval := v.args.interval, filter := v.args.filter, latest := s.monitor.latest, nextEnd := n }
          feeds := Vector.ofFn fun (i : Fin 8) => { s.feeds[i] with health := { (s.feeds[i]).health with
            loss := v.args.feeds[i].loss, late := v.args.feeds[i].late, patch := v.args.feeds[i].patch
            autoclear := v.args.feeds[i].autoclear
            conds := Vector.ofFn fun (j : Fin 17) => { (s.feeds[i]).health.conds[j] with
              select := v.actions[i][j].1, actions := v.actions[i][j].2 } } }
          link := { s.link with enables := v.enables }
          settings := { s.settings with monitor := .loaded } } ∧
      (v.args.interval = s.monitor.interval → n = s.monitor.nextEnd) ∧
      (v.args.interval ≠ s.monitor.interval → max s.time t < n ∧ n ≤ max s.time t + v.args.interval * 1000 ∧
        n % (v.args.interval * 1000) = 0)) ∧
  (∀ (t : Nat) (answers : Bool) (s : State), s.settings.started = false → s.settings.feeds ≠ .notRead →
    s.settings.monitor ≠ .notRead →
    let bs := Region.store.read s.settings.flash answers
    (parseStoreRegion bs = none → exec (.regionRead t answers) s =
      .next { s.start t with
        settings := { s.settings with store := .defaulted, started := true }
        store := { s.store with settling := .until (max s.time t + s.store.settings.timeout * 1000) } }) ∧
    ∀ v, parseStoreRegion bs = some v → exec (.regionRead t answers) s =
      .next { s.start t with
        settings := { s.settings with store := .loaded, started := true }
        store := { s.store with settings := v, settling := .until (max s.time t + v.timeout * 1000) } }) ∧
  (∀ (r : Region) (flash : List Host.Cell), r.read flash false = List.replicate r.length 0xFF ∧
    r.passes (r.read flash false) = false) ∧
  (∀ bs v, parseFeeds bs = some v → Region.feeds.passes bs = true ∧ (∀ i : FeedNo, v.entries[i].sound) ∧
    1 ≤ v.port ∧ v.port ≤ 65535 ∧
    ∀ i j : FeedNo, i ≠ j → v.entries[i].enable = true → v.entries[j].enable = true →
      v.entries[i].tag ≠ v.entries[j].tag) ∧
  (∀ bs v, parseMonitorRegion bs = some v → Region.monitor.passes bs = true ∧
    10 ≤ v.args.interval ∧ v.args.interval ≤ 1000 ∧ 1 ≤ v.args.filter ∧ v.args.filter ≤ 8 ∧
    ∀ i : FeedNo, 1 ≤ v.args.feeds[i].loss ∧ v.args.feeds[i].loss ≤ 1000 ∧ 1 ≤ v.args.feeds[i].late ∧
      v.args.feeds[i].late ≤ 65535 ∧ 1 ≤ v.args.feeds[i].patch ∧ v.args.feeds[i].patch ≤ 255 ∧
      ∀ j : Fin 17, 8 ≤ j.val → v.actions[i][j].2.drop = false) ∧
  ∀ bs v, parseStoreRegion bs = some v → Region.store.passes bs = true ∧ v.sound

/-- R182, R186: every region image has the region's length, its mark, and words that sum to 0. R183, R185, R192: the three
regions that a save forms from sound settings are read back as those settings. -/
def Obligations.SavedRegionsLoadBack : Prop :=
  (∀ (r : Region) (settings : Bytes),
    (r.image settings).length = r.length ∧ fieldNat (r.image settings) 0 4 = r.mark ∧
    regionSum (r.image settings) = 0) ∧
  ∀ s : State, s.settingsSound →
    parseFeeds (Region.feeds.image s.feedsSettings) =
      some { entries := Vector.ofFn fun (i : Fin 8) => (s.feed i).entry, address := s.line.address,
             port := s.line.udpPort } ∧
    parseMonitorRegion (Region.monitor.image s.monitorSettings) =
      some { args := { interval := s.monitor.interval, filter := s.monitor.filter,
                       feeds := Vector.ofFn fun (i : Fin 8) =>
                         { loss := (s.health i).loss, late := (s.health i).late, patch := (s.health i).patch,
                           autoclear := (s.health i).autoclear } }
             actions := Vector.ofFn fun (i : Fin 8) => Vector.ofFn fun (j : Fin 17) =>
               ((s.health i).conds[j].select, (s.health i).conds[j].actions)
             enables := s.link.enables } ∧
    parseStoreRegion (Region.store.image s.store.settings.bytes) = some s.store.settings

/-- R186: SAVE SETTINGS fixes the snapshot of all three regions and starts with FEEDS; while a save is in flight it is
refused REFUSED_BUSY and changes nothing. The step at which the save stands is open (log entry 5). -/
def Obligations.SaveSettingsStartsOneSave : Prop :=
  ∀ (t : Nat) (s : State), s.dispatches 0x60 [] = true →
    (s.settings.save = none →
      exec (.saveSettings t) s =
        .next ({ s.start t with
          free := { s.free with count := s.free.count + 1 }
          settings := { s.settings with save := some {
            feeds := Region.feeds.image s.feedsSettings
            monitor := Region.monitor.image s.monitorSettings
            store := Region.store.image s.store.settings.bytes
            region := .feeds, step := Config.saveStep s.free.count, verified := true } } }.withReply
          (Reply.done 0x60 false []))) ∧
    (s.settings.save ≠ none →
      exec (.saveSettings t) s = .next ((s.start t).withReply (Reply.refused 0x60 .refusedBusy)))

/-- R187: after a region's write the flash holds there what the row says (the snapshot when it says nothing) and every
other region as it was. The region is verified when the flash answered and the region compares with the snapshot byte for
byte. The save goes on to the next region, and after STORE it completes with SETTINGS_SAVED when every region was
verified, and with SETTINGS_FAILED otherwise. -/
def Obligations.RegionWriteGoesOnAndCompletes : Prop :=
  ∀ (t : Nat) (s : State) (v : Save) (answers : Bool) (held : Option Bytes), s.settings.save = some v →
    Memory.wf flashByte s.settings.flash → v.image.length = v.region.length →
    (∀ bs, held = some bs → bs.length = v.region.length) →
    let good := v.verified && answers && decide (held = none ∨ held = some v.image)
    ∃ t', exec (.regionWrite t answers held) s = .next t' ∧
      v.region.read t'.settings.flash true = held.getD v.image ∧
      (∀ r : Region, r ≠ v.region → r.read t'.settings.flash true = r.read s.settings.flash true) ∧
      (v.region = .feeds → t'.link = s.link ∧ t'.settings.save =
        some { v with region := .monitor, step := Config.saveStep s.free.count, verified := good }) ∧
      (v.region = .monitor → t'.link = s.link ∧ t'.settings.save =
        some { v with region := .store, step := Config.saveStep s.free.count, verified := good }) ∧
      (v.region = .store → t'.settings.save = none ∧ t'.link.pending.feeds = s.link.pending.feeds ∧
        t'.link.pending.device = s.link.pending.device ||| (if good then 0b0001 else 0b0010)) ∧
      t'.settings = { s.settings with save := t'.settings.save, flash := t'.settings.flash } ∧
      t'.link = { s.link with pending := t'.link.pending } ∧ t'.feeds = s.feeds ∧ t'.line = s.line ∧
      t'.intake = s.intake ∧ t'.store = s.store ∧ t'.monitor = s.monitor ∧ t'.cells = s.cells ∧ t'.pool = s.pool

/-! ## The control link -/

/-- R169: an exchange begun while a request is in processing clocks out a PENDING frame with that request's code;
what it clocked in is discarded and EARLY_EXCHANGES increases by 1. R170: one that is not early and is not 1,024 bits
long clocks out the current reply; what it clocked in is discarded and SHORT_EXCHANGES increases by 1. Nothing else
changes. -/
def Obligations.EarlyAndShortExchangesAreDiscarded : Prop :=
  (∀ (t bits : Nat) (mosi req : Bytes) (s : State), s.link.processing = some req →
      exec (.spiExchange t bits mosi) s =
        .next { s.start t with
          out := { writes := [],
                   miso := clockedOut ((Reply.refused (requestCode req) .pending).frame s.summary) bits }
          link := { s.link with early := s.link.early + 1 } }) ∧
  (∀ (t bits : Nat) (mosi : Bytes) (s : State), s.link.processing = none → bits ≠ 1024 →
      exec (.spiExchange t bits mosi) s =
        .next { s.start t with
          out := { writes := [], miso := clockedOut (s.link.reply.frame s.summary) bits }
          link := { s.link with short := s.link.short + 1 } })

/-- R168, R172: an exchange of 1,024 bits that is not early clocks out the 128 bytes of the current reply and its
request becomes the request in processing when no step before dispatch decides it; READY goes inactive, reply parts held
are discarded, and a HELLO, being dispatched, clears RESET_SEEN (R171, R180). A request of code 0x00 that finds parts held
goes into processing too and leaves them (R174). -/
def Obligations.TakenExchangeDispatchesRequest : Prop :=
  ∀ (t : Nat) (req : Bytes) (s : State), s.link.processing = none → req.length = 128 →
    (requestCode req ≠ 0 → (s.settings.started = true ∨ requestCode req = 0x01) → requestLength req ≤ 126 →
      bodyFits (requestCode req) (requestLength req) = some true →
      ∃ t', exec (.spiExchange t 1024 req) s = .next t' ∧ t'.out.miso = s.link.reply.frame s.summary ∧
        t'.out.miso.length = 128 ∧
        t'.link = { s.link with
          processing := some req, parts := [], resetSeen := s.link.resetSeen && requestCode req != 0x01 } ∧
        t'.ready = false ∧ t'.dispatches (requestCode req) (requestBody req) = true ∧ s.sameButLink t') ∧
    (requestCode req = 0 → s.settings.started = true → s.link.parts ≠ [] →
      ∃ t', exec (.spiExchange t 1024 req) s = .next t' ∧ t'.out.miso = s.link.reply.frame s.summary ∧
        t'.link = { s.link with processing := some req } ∧ t'.ready = false ∧ s.sameButLink t')

/-- R172: a taken request that step 1, 3 or 4 decides is answered without dispatch: NOT_STARTED before start-up has
finished, UNKNOWN_REQUEST for a code outside the catalogue, which code 0x00 with no parts held is, BAD_ARGUMENT for a body
length it does not accept. -/
def Obligations.UndispatchedRequestIsRefused : Prop :=
  ∀ (t : Nat) (req : Bytes) (s : State), s.link.processing = none → req.length = 128 → ∀ o : ReplyCode,
    (o = .notStarted ∧ s.settings.started = false ∧ requestCode req ≠ 0x01 ∨
     o = .unknownRequest ∧ s.settings.started = true ∧ bodyFits (requestCode req) (requestLength req) = none ∧
       (requestCode req = 0 → s.link.parts = []) ∨
     o = .badArgument ∧ (s.settings.started = true ∨ requestCode req = 0x01) ∧
       (bodyFits (requestCode req) (requestLength req) = some false ∨
        126 < requestLength req ∧ bodyFits (requestCode req) (requestLength req) ≠ none)) →
    exec (.spiExchange t 1024 req) s =
      .next ({ s.start t with out := { writes := [], miso := s.link.reply.frame s.summary } }.withReply
        (Reply.refused (requestCode req) o))

/-- R174: an answer's parts carry its whole body in order, at most 122 bytes each, MORE set on every part but the last;
each carries the request's code, its outcome and the same CLAMPED. A request of code 0x00 takes the next held part as
the current reply; the parts behind it stay held. -/
def Obligations.ReplyPartsCarryWholeBody : Prop :=
  (∀ (s : State) (code : Byte) (a : Answer), a.body.length ≤ 1952 →
    let t := s.answer code a
    t.link.reply.body ++ t.link.parts.flatMap (·.body) = a.body ∧
    (∀ r ∈ t.link.reply :: t.link.parts, r.body.length ≤ 122 ∧ r.code = code ∧ r.outcome = a.outcome ∧
      r.clamped = a.clamped) ∧
    (∃ l r, t.link.reply :: t.link.parts = l ++ [r] ∧ r.more = false ∧ ∀ x ∈ l, x.more = true) ∧
    t.link.parts.length ≤ 15 ∧ t.link.processing = none) ∧
  ∀ (t : Nat) (s : State) (req : Bytes) (r : Reply) (rest : List Reply), s.link.processing = some req →
    requestCode req = 0 → s.settings.started = true → s.link.parts = r :: rest →
    exec (.nextPart t) s =
      .next { s.start t with link := { s.link with reply := r, parts := rest, processing := none } }

/-- R176, R178, R49, R92, R142, R167, R186, R191: the seven flags of the status summary, each from the state it
reports; its other bits are clear, it stands first in every frame clocked out, and ATTN is its bit 0. -/
def Obligations.StatusSummaryReportsState : Prop :=
  ∀ s : State,
    (s.attn = true ↔ (∃ (f : FeedNo) (n : Nat), (s.link.pending.feeds[f]).getLsbD n = true ∧
        (s.link.enables.feeds[f]).getLsbD n = true) ∨
      ∃ n : Nat, s.link.pending.device.getLsbD n = true ∧ s.link.enables.device.getLsbD n = true) ∧
    s.summary.getLsbD 0 = s.attn ∧ s.summary.getLsbD 1 = s.settings.started ∧
    (s.summary.getLsbD 2 = true ↔ s.settings.save ≠ none) ∧
    (s.summary.getLsbD 3 = true ↔ ∃ f : FeedNo, (s.take f).state = .faulted) ∧
    (s.summary.getLsbD 4 = true ↔ s.cells.freeCount < 8192) ∧
    (s.summary.getLsbD 5 = true ↔ ∃ l : LaneNo, ∀ g : TagNo, ∃ i, s.store.tag l g = .quarantined i) ∧
    s.summary.getLsbD 6 = s.link.resetSeen ∧ (∀ n, 7 ≤ n → s.summary.getLsbD n = false) ∧
    fieldNat s.frameOut 0 2 = s.summary.toNat ∧ s.frameOut.length = 128

/-- R180, R171: a HELLO clears RESET_SEEN when its exchange dispatches it, before start-up has finished too, and carried
out it answers the 19 bytes of its body. -/
def Obligations.HelloReportsAndClearsResetSeen : Prop :=
  (∀ (t : Nat) (req : Bytes) (s : State), s.link.processing = none → req.length = 128 → requestCode req = 0x01 →
    requestLength req = 0 →
    ∃ t', exec (.spiExchange t 1024 req) s = .next t' ∧ t'.link.resetSeen = false ∧ t'.dispatches 0x01 [] = true) ∧
  ∀ (t : Nat) (s : State), s.dispatches 0x01 [] = true →
    exec (.hello t) s =
      .next ((s.start t).withReply (Reply.done 0x01 false
        ([0x6C, 1, if s.settings.started then 1 else 0, s.settings.cause.code] ++
         be1 s.settings.feeds.code ++ be1 s.settings.monitor.code ++ be1 s.settings.store.code ++
         be8 (max s.time t) ++ be2 s.link.early.toNat ++ be2 s.link.short.toNat)))

/-- R173, R172: a request that only reads answers DONE with its whole body and changes nothing but the reply. Its
layout's open points are log entries 12 to 16. -/
def Obligations.ReadingRequestsChangeNothing : Prop :=
  ∀ (c : Instr) (t : Nat) (s : State) (body report : Bytes) (code : Byte), c.time = some t →
    reading c (s.start t) body = some (code, report) → s.dispatches code body = true →
    ∃ t', exec c s = .next t' ∧ s.sameButLink t' ∧ t'.link.pending = s.link.pending ∧
      t'.link.enables = s.link.enables ∧ t'.link.resetSeen = s.link.resetSeen ∧ t'.link.early = s.link.early ∧
      t'.link.short = s.link.short ∧ t'.link.processing = none ∧ t'.link.reply.code = code ∧
      t'.link.reply.outcome = .done ∧ t'.link.reply.clamped = false ∧
      t'.link.reply.body ++ t'.link.parts.flatMap (·.body) = report

/-- R173: a request that names a feed is refused BAD_ARGUMENT for a feed number of 8 or more. R84, R88, R91, R99: STOP,
ABORT, RELEASE and FLUSH INDEX are refused REFUSED_STATE in the states they do not apply to. A refused request changes
nothing. -/
def Obligations.RefusedRequestsChangeNothing : Prop :=
  (∀ (c : Instr) (t : Nat) (code : Byte) (s : State) (body : Bytes),
      (c, code) ∈ ([(.setFeed t, 0x10), (.readFeed t, 0x11), (.feedStatus t, 0x12), (.armTake t, 0x20),
        (.stopTake t, 0x21), (.abortTake t, 0x22), (.releaseTake t, 0x23), (.takeStatus t, 0x24), (.flushIndex t, 0x25),
        (.setActions t, 0x31), (.readConditions t, 0x32), (.clearConditions t, 0x33)] : List (Instr × Byte)) →
      s.dispatches code body = true → 8 ≤ fieldNat body 0 1 →
      exec c s = .next ((s.start t).withReply (Reply.refused code .badArgument))) ∧
  (∀ (t : Nat) (s : State) (f : FeedNo),
      (s.dispatches 0x21 (be1 f.val) = true → (s.take f).state ≠ .recording → (s.take f).state ≠ .armed →
        exec (.stopTake t) s = .next ((s.start t).withReply (Reply.refused 0x21 .refusedState))) ∧
      (s.dispatches 0x22 (be1 f.val) = true → (s.take f).state ≠ .armed → (s.take f).state ≠ .recording →
        (s.take f).state ≠ .draining →
        exec (.abortTake t) s = .next ((s.start t).withReply (Reply.refused 0x22 .refusedState))) ∧
      (s.dispatches 0x23 (be1 f.val) = true → (s.take f).state ≠ .closed → (s.take f).state ≠ .aborted →
        (s.take f).state ≠ .faulted →
        exec (.releaseTake t) s = .next ((s.start t).withReply (Reply.refused 0x23 .refusedState))) ∧
      (s.dispatches 0x25 (be1 f.val) = true → (s.take f).state ≠ .recording →
        exec (.flushIndex t) s = .next ((s.start t).withReply (Reply.refused 0x25 .refusedState))))

/-- R179: READ NOTICES answers the pending and the enable set; CLEAR NOTICES removes what it names from the pending set
and answers that set; SET NOTICE ENABLES replaces the enable set; a set that marks a position with no notice is refused,
and nothing changes. -/
def Obligations.NoticeRequestsActOnTheSets : Prop :=
  ∀ (t : Nat) (s : State) (body : Bytes),
    (s.dispatches 0x40 [] = true →
      exec (.readNotices t) s =
        .next ((s.start t).withReply (Reply.done 0x40 false (s.link.pending.bytes ++ s.link.enables.bytes)))) ∧
    (∀ n, s.dispatches 0x41 body = true → parseNotices body = some n →
      ∃ left : NoticeSet, (∀ f : FeedNo, left.feeds[f] = s.link.pending.feeds[f] &&& ~~~ n.feeds[f]) ∧
        left.device = s.link.pending.device &&& ~~~ n.device ∧
        exec (.clearNotices t) s = .next ({ s.start t with link := { s.link with pending := left } }.withReply
          (Reply.done 0x41 false left.bytes))) ∧
    (∀ n, s.dispatches 0x42 body = true → parseNotices body = some n →
      exec (.setNoticeEnables t) s =
        .next ({ s.start t with link := { s.link with enables := n } }.withReply (Reply.done 0x42 false []))) ∧
    (s.dispatches 0x41 body = true → parseNotices body = none →
      exec (.clearNotices t) s = .next ((s.start t).withReply (Reply.refused 0x41 .badArgument))) ∧
    (s.dispatches 0x42 body = true → parseNotices body = none →
      exec (.setNoticeEnables t) s = .next ((s.start t).withReply (Reply.refused 0x42 .badArgument)))

/-! ## The feed table and intake -/

/-- R5: SET FEED of an IDLE take's feed replaces the entry whole, and the line port's settings with a line part, each
numeric setting clamped; CLAMPED says whether one was. Its refusals, by the rule's list, change nothing. R191: an enable
byte that is neither off nor on, or a path bit above 3, is refused before them. -/
def Obligations.SetFeedReplacesEntryOrRefuses : Prop :=
  (∀ (t : Nat) (s : State) (body : Bytes) (a : SetFeedArgs) (f : FeedNo), s.dispatches 0x10 body = true →
      parseSetFeed body = some a → a.feed = f.val → (s.take f).state = .idle →
      (a.line ≠ none → ∀ g, (s.take g).state = .idle) →
      (a.entry.enable = true → a.entry.paths ≠ 0 ∧
        ∀ g, g ≠ f → (s.feed g).entry.enable = true → (s.feed g).entry.tag ≠ a.entry.tag) →
      exec (.setFeed t) s =
        .next (({ s.start t with
            line := (match a.line with
              | none => s.line
              | some (address, port) => { s.line with address := address, udpPort := clamp 1 65535 port }) }.setFeed f
          { s.feed f with entry := { a.entry with
              depth := clamp 20 2000 a.entry.depth, jump := clamp 0 1024 a.entry.jump,
              publish := clamp 40 2000 a.entry.publish } }).withReply
          (Reply.done 0x10 (!(decide (20 ≤ a.entry.depth ∧ a.entry.depth ≤ 2000 ∧ a.entry.jump ≤ 1024 ∧
            40 ≤ a.entry.publish ∧ a.entry.publish ≤ 2000) &&
            a.line.all fun (l : Word × Nat) => decide (1 ≤ l.2 ∧ l.2 ≤ 65535))) []))) ∧
  (∀ (t : Nat) (s : State) (body : Bytes) (a : SetFeedArgs) (f : FeedNo) (o : ReplyCode),
      s.dispatches 0x10 body = true → parseSetFeed body = some a →
      (o = .badArgument ∧ 8 ≤ a.feed ∨
       a.feed = f.val ∧
        (o = .refusedBusy ∧ (s.take f).state ≠ .idle ∨
         o = .refusedBusy ∧ a.line ≠ none ∧ (∃ g, (s.take g).state ≠ .idle) ∨
         o = .badArgument ∧ (s.take f).state = .idle ∧ (a.line = none ∨ ∀ g, (s.take g).state = .idle) ∧
           a.entry.enable = true ∧
           (a.entry.paths = 0 ∨
            ∃ g, g ≠ f ∧ (s.feed g).entry.enable = true ∧ (s.feed g).entry.tag = a.entry.tag))) →
      exec (.setFeed t) s = .next ((s.start t).withReply (Reply.refused 0x10 o))) ∧
  ∀ (t : Nat) (s : State) (body : Bytes), s.dispatches 0x10 body = true →
    2 ≤ fieldNat body 5 1 ∨ 16 ≤ fieldNat body 6 1 →
    parseSetFeed body = none ∧
    exec (.setFeed t) s = .next ((s.start t).withReply (Reply.refused 0x10 .badArgument))

/-- R1, R3, R6, R7, R8: a frame that the line port or intake discards is counted once, HELD_OFF, CORRUPT, FOREIGN,
MALFORMED, UNCLAIMED, NO_TAKE or PATH_DISABLED, and changes nothing else; a packet that the drop filter discards is counted
on its path, dropped included, and goes no further (R13). R10: path accounting: the first packet, a packet ahead by
1..32,767, and a duplicate or older packet. -/
def Obligations.DiscardedFramesAreCounted : Prop :=
  (∀ (t : Nat) (frame : Bytes) (s : State),
      (s.settings.started = false → exec (.ethernetFrame t frame) s =
        .next { s.start t with line := { s.line with heldOff := s.line.heldOff + 1 } }) ∧
      (s.settings.started = true → judgeFrame s.line.address s.line.udpPort frame = .corrupt →
        exec (.ethernetFrame t frame) s =
          .next { s.start t with line := { s.line with corrupt := s.line.corrupt + 1 } }) ∧
      (s.settings.started = true → judgeFrame s.line.address s.line.udpPort frame = .foreign →
        exec (.ethernetFrame t frame) s =
          .next { s.start t with line := { s.line with foreign := s.line.foreign + 1 } })) ∧
  (∀ (t : Nat) (frame u : Bytes) (s : State), s.settings.started = true →
      judgeFrame s.line.address s.line.udpPort frame = .accepted u →
      let r := { s.start t with line := { s.line with accepted := s.line.accepted + 1 } }
      (parsePacket u = none → exec (.ethernetFrame t frame) s =
        .next { r with intake := { s.intake with malformed := s.intake.malformed + 1 } }) ∧
      ∀ p, parsePacket u = some p →
        (s.feedOfTag p.tag = none → exec (.ethernetFrame t frame) s =
          .next { r with intake := { s.intake with unclaimed := s.intake.unclaimed + 1 } }) ∧
        ∀ f, s.feedOfTag p.tag = some f →
          ((s.take f).state ≠ .armed → (s.take f).state ≠ .recording → exec (.ethernetFrame t frame) s =
            .next (r.setFeed f { s.feed f with
              intake := { (s.feed f).intake with noTake := (s.feed f).intake.noTake + 1 } })) ∧
          ((s.take f).state = .armed ∨ (s.take f).state = .recording → (s.feed f).entry.pathEnabled p.path = false →
            exec (.ethernetFrame t frame) s =
              .next (r.setFeed f { s.feed f with
                intake := { (s.feed f).intake with pathDisabled := (s.feed f).intake.pathDisabled + 1 } }))) ∧
  (∀ (t : Nat) (frame : Bytes) (s : State) (p : Packet) (f : FeedNo), s.reachesPath frame p f →
    pathDropped (s.feed f).entry (s.health f) p.path = true →
    exec (.ethernetFrame t frame) s =
      .next (((s.start t).counted p f).onPath f p.path fun a => { a with dropped := a.dropped + 1 })) ∧
  ∀ (a : PathAcc) (q : Half),
    (a.last = none → a.account q = { a with
      last := some q, intReceived := satAdd a.intReceived 1, intExpected := satAdd a.intExpected 1,
      received := a.received + 1, expected := a.expected + 1 }) ∧
    ∀ l, a.last = some l →
      (1 ≤ (q - l).toNat → (q - l).toNat ≤ 32767 → a.account q = { a with
        last := some q, intReceived := satAdd a.intReceived 1,
        intExpected := satAdd a.intExpected (q - l).toNat, received := a.received + 1,
        expected := a.expected + BitVec.ofNat 32 (q - l).toNat }) ∧
      ((q - l).toNat = 0 ∨ 32768 ≤ (q - l).toNat → a.account q = { a with
        intReceived := satAdd a.intReceived 1, received := a.received + 1 })

/-- R12, R13: a feed with a path enabled always has one whose packets pass, and the guard keeps only the
lowest-numbered enabled path, and only while every enabled path is a candidate. -/
def Obligations.LastPathGuardKeepsOnePath : Prop :=
  ∀ (e : FeedEntry) (h : Health),
    (e.paths ≠ 0 → ∃ p : Fin 4, e.pathEnabled p = true ∧ pathDropped e h p = false) ∧
    ∀ p : Fin 4, e.pathEnabled p = true → h.dropCandidate p = true → pathDropped e h p = false →
      (∀ q : Fin 4, e.pathEnabled q = true → h.dropCandidate q = true) ∧
      ∀ q : Fin 4, e.pathEnabled q = true → p ≤ q

/-! ## The window -/

/-- R18, R33: a fragment in the late region is counted LATE twice and discarded; beyond its path's accounting nothing
else changes. -/
def Obligations.LateFragmentIsDiscarded : Prop :=
  ∀ (t : Nat) (frame : Bytes) (s : State) (p : Packet) (f : FeedNo) (b : Half), s.reachesPath frame p f →
    pathDropped (s.feed f).entry (s.health f) p.path = false → (s.window f).base = some b →
    49152 ≤ distance b p.frame → (s.feed f).entry.jump ≤ 1024 →
    exec (.ethernetFrame t frame) s =
      .next (((s.start t).counted p f).setWindow f { s.window f with
        interval := { (s.window f).interval with late := satAdd (s.window f).interval.late 1 }
        totals := { (s.window f).totals with late := (s.window f).totals.late + 1 } })

/-- R18, R20: a fragment at distance 0..31 from the base is placed. For a frame count with a record, the first check it
fails, MISMATCH, DUPLICATE or OVERLAP, discards it and is counted; nothing else changes. -/
def Obligations.MisplacedFragmentIsCounted : Prop :=
  (∀ (t : Nat) (frame : Bytes) (s : State) (p : Packet) (f : FeedNo) (b : Half), s.reachesPath frame p f →
    pathDropped (s.feed f).entry (s.health f) p.path = false → (s.window f).base = some b → distance b p.frame < 32 →
    exec (.ethernetFrame t frame) s =
      .next (((s.start t).counted p f).place f
        { path := p.path, frame := p.frame, index := p.index, count := p.count, offset := p.offset,
          payload := p.payload, arrival := max s.time t })) ∧
  ∀ (s : State) (f : FeedNo) (x : Fragment) (r : FrameRecord),
    (s.window f).records.find? (fun r => r.frame == x.frame) = some r →
    (x.count ≠ r.declared → s.place f x = s.setWindow f { s.window f with
      totals := { (s.window f).totals with mismatch := (s.window f).totals.mismatch + 1 } }) ∧
    (x.count = r.declared → (∃ h ∈ r.held, h.index = x.index) → s.place f x = s.setWindow f { s.window f with
      totals := { (s.window f).totals with duplicate := (s.window f).totals.duplicate + 1 } }) ∧
    (x.count = r.declared → (∀ h ∈ r.held, h.index ≠ x.index) →
      (∃ h ∈ r.held, rangesShare h.offset h.length x.offset x.payload.length = true) →
      s.place f x = s.setWindow f { s.window f with
        totals := { (s.window f).totals with overlap := (s.window f).totals.overlap + 1 } })

/-- R20, R21, R24, R26, R28: a fragment that its record takes in goes to the head cell and to its place in the record;
with no cell free it is counted CELL_SHORT twice and nothing else changes. One that completes the base's record, the only
record, releases it complete at once: the composer is handed the frame with its declared fragment count, every held
fragment, the mark and the release time. R22: a fragment of a frame count that has no record creates one in its place in
distance order, with the smaller of its own deadline and the nearest later record's; at the base, the only record of one
fragment, it is released at once. -/
def Obligations.PlacedFragmentJoinsRecord : Prop :=
  (∀ (s : State) (f : FeedNo) (x : Fragment) (b : Half) (before after : List FrameRecord) (r : FrameRecord)
    (left right : List Held), (s.take f).state = .recording → (s.window f).base = some b →
    (s.window f).records = before ++ r :: after → r.frame = x.frame → (∀ q ∈ before ++ after, q.frame ≠ x.frame) →
    x.count = r.declared → r.held = left ++ right → (∀ h ∈ left, h.index < x.index) →
    (∀ h ∈ right, x.index < h.index) →
    (∀ h ∈ r.held, rangesShare h.offset h.length x.offset x.payload.length = false) →
    (s.cells.acquire = none → s.place f x = s.setWindow f { s.window f with
      interval := { (s.window f).interval with cellShort := satAdd (s.window f).interval.cellShort 1 }
      totals := { (s.window f).totals with cellShort := (s.window f).totals.cellShort + 1 } }) ∧
    ∀ cell cells, s.cells.acquire = some (cell, cells) →
      let held := left ++
        { index := x.index, offset := x.offset, length := x.payload.length, cell := cell } :: right
      let stored := { s with cells :=
        { cells with bytes := Memory.write ramByte cells.bytes (2048 * cell) x.payload } }
      ((∀ q ∈ before ++ after, q.frame = b → q.complete = false) → (x.frame = b → held.length ≠ r.declared) →
        s.place f x = stored.setWindow f { s.window f with records := before ++ { r with held := held } :: after }) ∧
      (before = [] → after = [] → x.frame = b → held.length = r.declared →
        s.place f x =
          (stored.setWindow f { s.window f with
            base := some (b + 1), records := [], mark := false
            totals := { (s.window f).totals with complete := (s.window f).totals.complete + 1 } }).compose f
          { frame := b, kind := .complete, declared := some r.declared, held := held, mark := (s.window f).mark
            time := s.time })) ∧
  ∀ (s : State) (f : FeedNo) (x : Fragment) (b : Half) (before after : List FrameRecord),
    (s.take f).state = .recording → (s.window f).base = some b → (s.window f).records = before ++ after →
    (∀ q ∈ before, distance b q.frame < distance b x.frame) →
    (∀ q ∈ after, distance b x.frame < distance b q.frame) →
    (s.cells.acquire = none → s.place f x = s.setWindow f { s.window f with
      interval := { (s.window f).interval with cellShort := satAdd (s.window f).interval.cellShort 1 }
      totals := { (s.window f).totals with cellShort := (s.window f).totals.cellShort + 1 } }) ∧
    ∀ cell cells, s.cells.acquire = some (cell, cells) →
      let held : List Held := [{ index := x.index, offset := x.offset, length := x.payload.length, cell := cell }]
      let own := x.arrival + (s.feed f).entry.depth * 1000
      let stored := { s with cells :=
        { cells with bytes := Memory.write ramByte cells.bytes (2048 * cell) x.payload } }
      ((∀ q ∈ before, q.frame = b → q.complete = false) → (x.frame = b → x.count ≠ 1) →
        s.place f x = stored.setWindow f { s.window f with records := before ++
          { frame := x.frame, declared := x.count, held := held, first := x.arrival
            deadline := match after with
              | [] => own
              | q :: _ => min own q.deadline } :: after }) ∧
      (before = [] → after = [] → x.frame = b → x.count = 1 →
        s.place f x =
          (stored.setWindow f { s.window f with
            base := some (b + 1), records := [], mark := false
            totals := { (s.window f).totals with complete := (s.window f).totals.complete + 1 } }).compose f
          { frame := b, kind := .complete, declared := some 1, held := held, mark := (s.window f).mark
            time := s.time })

/-- R21, R22, R25: the first fragment of an ARMED take is placed: it takes the head cell, sets the base, creates a
record whose deadline is its arrival plus the window depth, and moves the take to RECORDING. -/
def Obligations.FirstFragmentStartsRecording : Prop :=
  ∀ (t : Nat) (frame : Bytes) (s : State) (p : Packet) (f : FeedNo) (cell : Nat) (cells : CellMem),
    s.reachesPath frame p f → pathDropped (s.feed f).entry (s.health f) p.path = false →
    (s.take f).state = .armed → (s.window f).base = none → (s.window f).records = [] → 1 < p.count →
    s.cells.acquire = some (cell, cells) →
    ∃ t', exec (.ethernetFrame t frame) s = .next t' ∧ (t'.take f) = { s.take f with state := .recording } ∧
      t'.window f = { s.window f with
        base := some p.frame
        records := [{ frame := p.frame, declared := p.count
                      held := [{ index := p.index, offset := p.offset, length := p.payload.length, cell := cell }]
                      first := max s.time t, deadline := max s.time t + (s.feed f).entry.depth * 1000 }] } ∧
      t'.cells = { cells with bytes := Memory.write ramByte cells.bytes (2048 * cell) p.payload } ∧
      t'.store = s.store ∧ t'.pool = s.pool ∧ t'.link = s.link ∧ s.otherFeedsSame t' f

/-- R18, R30: a fragment in the overrun region forces releases, each with the chain of R26, until its frame lies within 31
of the base; OVERRUN is counted twice unless a release ended the recording, which discards the fragment (R37). R31: one in
the discontinuity region flushes the window, makes its frame the base, sets the mark and is counted twice, unless the
flush ended the recording. The fragment's frame has more than one fragment, so its placement releases nothing. -/
def Obligations.FragmentsBeyondWindowMoveBase : Prop :=
  ∀ (t : Nat) (frame : Bytes) (s : State) (p : Packet) (f : FeedNo) (b : Half), s.windowsSound →
    s.reachesPath frame p f → pathDropped (s.feed f).entry (s.health f) p.path = false →
    (s.take f).state = .recording → (s.window f).base = some b → (s.feed f).entry.jump ≤ 1024 → 1 < p.count →
    let w := s.window f
    (32 ≤ distance b p.frame → distance b p.frame < 32 + (s.feed f).entry.jump →
      ∃ t', exec (.ethernetFrame t frame) s = .next t' ∧ s.otherFeedsSame t' f ∧
        ((t'.take f).state = .recording → ∃ b', (t'.window f).base = some b' ∧ distance b' p.frame < 32 ∧
          distance b b' + distance b' p.frame = distance b p.frame ∧
          (t'.window f).interval.overrun = satAdd w.interval.overrun 1 ∧
          (t'.window f).totals.overrun = w.totals.overrun + 1 ∧
          (t'.window f).totals.complete + (t'.window f).totals.partials + (t'.window f).totals.absent =
            w.totals.complete + w.totals.partials + w.totals.absent + BitVec.ofNat 32 (distance b b')) ∧
        ((t'.take f).state ≠ .recording → (t'.window f).base = none ∧ (t'.window f).records = [] ∧
          (t'.window f).interval.overrun = w.interval.overrun ∧ (t'.window f).totals.overrun = w.totals.overrun)) ∧
    (32 + (s.feed f).entry.jump ≤ distance b p.frame → distance b p.frame < 49152 →
      ∃ t', exec (.ethernetFrame t frame) s = .next t' ∧ s.otherFeedsSame t' f ∧
        ((t'.take f).state = .recording → (t'.window f).base = some p.frame ∧ (t'.window f).mark = true ∧
          (∀ r ∈ (t'.window f).records, r.frame = p.frame) ∧
          (t'.window f).interval.discontinuity = satAdd w.interval.discontinuity 1 ∧
          (t'.window f).totals.discontinuity = w.totals.discontinuity + 1) ∧
        ((t'.take f).state ≠ .recording → (t'.window f).base = none ∧ (t'.window f).records = [] ∧
          (t'.window f).interval.discontinuity = w.interval.discontinuity ∧
          (t'.window f).totals.discontinuity = w.totals.discontinuity) ∧
        (w.records = [] → (t'.take f).state = .recording))

/-- R17, R20, R22, R23: what the window holds keeps its shape (distinct fragment indexes, no byte held twice, deadlines that
never fall) and lives only in RECORDING (R39): every step keeps it. -/
def Obligations.WindowsStaySound : Prop :=
  ∀ s t : State, s.windowsSound → step s = .next t → t.windowsSound

/-- R26 (b), R27, R28, R60, R73, R74: at the front deadline a base frame without its fragment 0 is released partial and
becomes a REPEAT entry HEADERLESS that points at the last recorded reference; its holdings are dropped. -/
def Obligations.DeadlineReleasesHeaderlessFrame : Prop :=
  ∀ (t : Nat) (s : State) (f : FeedNo) (b : Half) (r : FrameRecord), (s.take f).state = .recording →
    (s.window f).base = some b → (s.window f).records = [r] → r.frame = b → r.complete = false →
    (∀ h ∈ r.held, h.index ≠ 0) → r.deadline ≤ max s.time t →
    (s.take f).comp.nextOrdinal / 63 < (s.take f).index.length / 2048 →
    (s.take f).comp.nextOrdinal < 4294967295 →
    (s.take f).page.openPage = (s.take f).comp.nextOrdinal / 63 → (s.take f).page.entries.length < 62 →
    (s.take f).page.owed = false → (s.take f).page.waiting = none →
    ∃ t', exec (.deadlineExpiry t f) s = .next t' ∧ (t'.take f).state = .recording ∧
      (t'.window f).base = some (b + 1) ∧ (t'.window f).records = [] ∧ (t'.window f).mark = false ∧
      (t'.window f).totals = { (s.window f).totals with partials := (s.window f).totals.partials + 1 } ∧
      (t'.take f).comp = { (s.take f).comp with
        nextOrdinal := (s.take f).comp.nextOrdinal + 1
        totals := { (s.take f).comp.totals with headerless := (s.take f).comp.totals.headerless + 1 } } ∧
      (t'.take f).page.entries = (s.take f).page.entries ++
        [{ ordinal := (s.take f).comp.nextOrdinal
           essenceOffset := ((s.take f).comp.lastRef.map (·.offset)).getD 0
           essenceLength := ((s.take f).comp.lastRef.map (·.length)).getD 0
           timecode := ((s.take f).comp.lastRef.map (·.timecode)).getD 0
           frameCount := b, condition := .repeated, lost := some .headerless, substituted := 0, filler := 0
           suspect := (s.health f).suspect, discontinuity := (s.window f).mark, audioFilled := false
           browse := .none, slot := none, maxAge := 0 }] ∧
      (t'.feed f).interval = { (s.feed f).interval with lost := satAdd (s.feed f).interval.lost 1 } ∧
      (t'.take f).timer = some ((s.take f).timer.getD (max s.time t + (s.feed f).entry.publish * 1000)) ∧
      t'.cells = s.cells.dropAll (r.held.map (·.cell)) ∧ t'.store = s.store ∧ t'.link = s.link ∧
      s.otherFeedsSame t' f

/-! ## Composition and browse copies -/

/-- R51: the pieces of a range that the held fragments include whole name exactly its bytes, in order, when no two held
fragments share a byte (R20): each piece stands in a held fragment, at the place of the frame unit that the pieces before
it have reached, and together they are as long as the range. -/
def Obligations.PiecesCoverTheirRange : Prop :=
  ∀ (hs : List Held) (o l : Nat),
    hs.Pairwise (fun x y => rangesShare x.offset x.length y.offset y.length = false) → covered hs o l = true →
    ((piecesOf hs o l).map (·.length)).sum = l ∧
    ∀ before p after, piecesOf hs o l = before ++ p :: after → 0 < p.length ∧
      ∃ h ∈ hs, p.cell = h.cell ∧ p.offset + p.length ≤ h.length ∧
        h.offset + p.offset = o + (before.map (·.length)).sum

/-- R63, R64, R53: the plan of a frame that passes every decision: a slice whose range the held fragments include whole,
that passes R63's checks and needs at most 16 pieces is ORIGINAL; any other is SUBSTITUTED by its entry of the slice
source table with its source age, or FILLER when the entry is empty. R67, R70, R74 to R76, R101, R111: the frame is
recorded as the next ordinal: its essence request is queued or in flight at the next essence offset for its padded length,
which its gather list makes up (R72), its ORIGINAL slices replace their entries of the table (R52), its ordinal joins the
pending list and its entry is handed to the page buffer; on an open page with room and nothing owed it joins there. -/
def Obligations.RecordedFrameGetsOrdinalAndEntry : Prop :=
  ∀ (s : State) (f : FeedNo) (r : Released) (p : Plan) (cell : Nat) (cells : CellMem),
    judge (s.take f).comp s.cells r = .planned p → (s.take f).indexRoom = true →
    (s.take f).comp.nextOffset + p.padded ≤ (s.take f).essence.length →
    s.store.essenceQ.length < 64 → s.cells.acquire = some (cell, cells) → (s.take f).state = .recording →
    let c := (s.take f).comp
    let k := c.nextOrdinal
    let b := (s.take f).copy
    p.slices.length = p.header.slices.length ∧
    (∀ n o l : Nat, p.header.slices[n]? = some (o, l) → ∃ x, p.slices[n]? = some x ∧
      let ps := piecesOf r.held o l
      let bytes := ps.flatMap s.cells.read
      let covers := ∀ i, o ≤ i → i < o + l → ∃ h ∈ r.held, h.offset ≤ i ∧ i < h.offset + h.length
      let good := 8 ≤ l ∧ fieldNat bytes 0 2 = n ∧ fieldNat bytes 2 1 ≤ 3 ∧
        fieldNat bytes 4 2 = p.header.raster.blocks ∧ l = 8 + 2 * fieldNat bytes 4 2 + fieldNat bytes 6 2
      (covers → good → ps.length ≤ 16 → x = { source := .original, length := l, pieces := ps }) ∧
      ∀ why, (why = .missing ∧ ¬ covers ∨ why = .damaged ∧ covers ∧ ¬ good ∨
          why = .split ∧ covers ∧ good ∧ 16 < ps.length) →
        (∀ e, c.sources[n]? = some (some e) →
          x = { source := .substituted (min 255 (k - e.ordinal)) why, length := e.length, pieces := e.pieces }) ∧
        ((∀ e, c.sources[n]? ≠ some (some e)) →
          x = { source := .filler why, length := p.header.raster.fillerBytes, pieces := [] })) ∧
    (r.held.Pairwise (fun x y => rangesShare x.offset x.length y.offset y.length = false) →
      (∀ e, some e ∈ c.sources → (e.pieces.map (·.length)).sum = e.length) →
      ((p.gather cell).map Gather.length).sum = p.padded) ∧
    ∃ (t : State) (e : IndexEntry), s.compose f r = t.joinEntry f e ∧
      (t.take f).state = .recording ∧ (t.take f).page = (s.take f).page ∧ (t.take f).timer = (s.take f).timer ∧
      t.time = s.time ∧ t.window f = s.window f ∧ t.link = s.link ∧ s.otherFeedsSame t f ∧
      (t.take f).comp = { c with
        rate := some (c.rate.getD p.header.rate)
        nextOrdinal := k + 1
        nextOffset := c.nextOffset + p.padded
        lastRef := some { ordinal := k, offset := c.nextOffset, length := p.recorded, timecode := p.header.timecode }
        sources := (t.take f).comp.sources
        totals := (t.take f).comp.totals } ∧
      (∀ (n : Nat) (x : SlicePlan), p.slices[n]? = some x → x.source = .original → n < c.sources.length →
        (t.take f).comp.sources[n]? = some (some { pieces := x.pieces, length := x.length, ordinal := k })) ∧
      (∀ n : Nat, (∀ x, p.slices[n]? = some x → x.source ≠ .original) →
        (t.take f).comp.sources[n]? = c.sources[n]?) ∧
      (t.take f).comp.sources.length = c.sources.length ∧
      (t.feed f).interval.patched = satAdd (s.feed f).interval.patched (if p.whole then 0 else 1) ∧
      (t.take f).unwritten = (s.take f).unwritten ++ [k] ∧
      e.ordinal = k ∧ e.essenceOffset = c.nextOffset ∧ e.essenceLength = p.recorded ∧
      e.timecode = p.header.timecode ∧ e.frameCount = r.frame ∧ e.lost = none ∧
      e.condition = (if p.whole then .whole else .patched) ∧ e.substituted = p.substituted ∧
      e.filler = p.fillers ∧ e.discontinuity = r.mark ∧ e.suspect = (s.health f).suspect ∧
      e.audioFilled = p.audio.isNone ∧ (∀ x ∈ p.slices, x.age ≤ e.maxAge) ∧
      (e.maxAge = 0 ∨ ∃ x ∈ p.slices, x.age = e.maxAge) ∧
      ((s.take f).profile = .none ∨ k % (s.take f).divisor ≠ 0 → e.browse = .none ∧ e.slot = none) ∧
      ((s.take f).profile ≠ .none → k % (s.take f).divisor = 0 →
        (b.status = .ended ∨ b.slotCount ≤ k / (s.take f).divisor → e.browse = .none ∧ e.slot = none) ∧
        (b.status ≠ .ended → k / (s.take f).divisor < b.slotCount →
          e.slot = some (k / (s.take f).divisor) ∧
          (b.outstanding = none → s.store.held .browse = false → s.store.browseQ.length < 32 →
            e.browse = .scheduled) ∧
          (b.outstanding ≠ none ∨ s.store.held .browse = true ∨ 32 ≤ s.store.browseQ.length →
            e.browse = .skipped))) ∧
      (∃ q, (q ∈ t.store.essenceQ ∨ ∃ i ∈ t.store.flying, i.request = q) ∧ q.take = f ∧
        q.subject = .essence k (p.gather cell) ∧
        q.address = (s.take f).essence.base + c.nextOffset ∧ q.length = p.padded) ∧
      ((s.take f).page.openPage = k / 63 → (s.take f).page.entries.length < 62 → (s.take f).page.owed = false →
        (s.take f).page.waiting = none →
        s.compose f r = t.setTake f { t.take f with
          page := { (s.take f).page with entries := (s.take f).page.entries ++ [e] }
          timer := some ((s.take f).timer.getD (s.time + (s.feed f).entry.publish * 1000)) })

/-- R58, R60 to R62: what decisions 1 to 4 answer, in order. R59, R67, R85: a frame that finds no index room, or, once
planned, no essence room, ends the recording with INDEX_FULL or ESSENCE_FULL and gets no ordinal. R58, R68, R69, R73, R74,
R77, R78: a frame that decisions 1 to 4 lose, or that finds the ESSENCE queue full or no cell free, becomes a REPEAT entry
of the next ordinal with that cause, handed to the page buffer; on an open page with room and nothing owed it joins
there. That the frame's holdings are dropped before its entry is handed on, so that a snapshot the entry takes may acquire
one of those cells, is the model's reading (R73 leaves the order open: log entry 28). -/
def Obligations.UnrecordedFrameIsRepeatedOrFull : Prop :=
  (∀ (c : Composition) (m : CellMem) (r : Released),
    (r.kind = .absent → judge c m r = .lost .absent) ∧
    (r.kind ≠ .absent → (∀ h ∈ r.held, h.index ≠ 0) → judge c m r = .lost .headerless) ∧
    ∀ h0, r.kind ≠ .absent → r.held.find? (fun h => h.index == 0) = some h0 →
      let payload := m.read { cell := h0.cell, offset := 0, length := h0.length }
      (parseHeader payload = none → judge c m r = .lost .malformed) ∧
      ∀ hd, parseHeader payload = some hd →
        (c.raster ≠ some hd.raster ∨ (∃ rate, c.rate = some rate ∧ rate ≠ hd.rate) → judge c m r = .lost .format) ∧
        (c.raster = some hd.raster → c.rate = none ∨ c.rate = some hd.rate →
          ∃ p, judge c m r = .planned p ∧ p.header = hd ∧ p.slices.length = hd.slices.length)) ∧
  (∀ (s : State) (f : FeedNo) (r : Released) (cause : EndCause), (s.take f).state = .recording →
    let c := (s.take f).comp
    let room := c.nextOrdinal / 63 < (s.take f).index.length / 2048 ∧ c.nextOrdinal ≠ 4294967295
    (cause = .indexFull ∧ ¬ room ∨
     cause = .essenceFull ∧ room ∧ ∃ p, judge c s.cells r = .planned p ∧
       (s.take f).essence.length < c.nextOffset + p.padded) →
    let t := s.compose f r
    (t.take f).state = .draining ∧ (t.take f).endCause = some cause ∧ (t.take f).comp = c ∧
    (t.take f).page.entries = (s.take f).page.entries ∧
    (t.take f).page.finalPage = some (s.take f).page.openPage ∧ (t.window f).base = none ∧
    (t.window f).records = [] ∧ (t.window f).mark = false ∧ (t.take f).unwritten = (s.take f).unwritten ∧
    s.otherFeedsSame t f) ∧
  ∀ (s : State) (f : FeedNo) (r : Released) (cause : LostCause), (s.take f).state = .recording →
    let c := (s.take f).comp
    let k := c.nextOrdinal
    k / 63 < (s.take f).index.length / 2048 → k ≠ 4294967295 →
    (judge c s.cells r = .lost cause ∨
     (∃ p, judge c s.cells r = .planned p ∧ c.nextOffset + p.padded ≤ (s.take f).essence.length ∧
       (cause = .backlog ∧ 64 ≤ s.store.essenceQ.length ∨
        cause = .noCell ∧ s.store.essenceQ.length < 64 ∧ s.cells.acquire = none))) →
    let e : IndexEntry :=
      { ordinal := k
        essenceOffset := (c.lastRef.map (·.offset)).getD 0
        essenceLength := (c.lastRef.map (·.length)).getD 0
        timecode := (c.lastRef.map (·.timecode)).getD 0
        frameCount := r.frame, condition := .repeated, lost := some cause, substituted := 0, filler := 0
        suspect := (s.health f).suspect, discontinuity := r.mark, audioFilled := false
        browse := .none, slot := none, maxAge := 0 }
    let u : Take := { s.take f with comp := { c with
      nextOrdinal := k + 1
      totals := { c.totals with
        absent := c.totals.absent + (if cause = .absent then 1 else 0)
        headerless := c.totals.headerless + (if cause = .headerless then 1 else 0)
        malformed := c.totals.malformed + (if cause = .malformed then 1 else 0)
        format := c.totals.format + (if cause = .format then 1 else 0)
        backlog := c.totals.backlog + (if cause = .backlog then 1 else 0)
        noCell := c.totals.noCell + (if cause = .noCell then 1 else 0) } } }
    let t := ({ s with cells := s.cells.dropAll (r.held.map (·.cell)) } : State).setFeed f { s.feed f with
      interval := { (s.feed f).interval with
        lost := satAdd (s.feed f).interval.lost 1
        format := satAdd (s.feed f).interval.format (if cause = .format then 1 else 0)
        backlog := satAdd (s.feed f).interval.backlog (if cause = .backlog then 1 else 0) }
      take := u }
    s.compose f r = t.joinEntry f e ∧
    ((s.take f).page.openPage = k / 63 → (s.take f).page.entries.length < 62 → (s.take f).page.owed = false →
      (s.take f).page.waiting = none →
      s.compose f r = t.setTake f { u with
        page := { (s.take f).page with entries := (s.take f).page.entries ++ [e] }
        timer := some ((s.take f).timer.getD (s.time + (s.feed f).entry.publish * 1000)) })

/-- R112, R113, R114, R123, R124: the browse builder's answers. While browse is ENDED it answers NONE and changes nothing;
a slot that does not fit ends browse with AREA_FULL, and the contexts are freed when busy is clear. For a slot that fits
while browse is ACTIVE, SCHEDULED sets busy and counts; SKIPPED for collide or for backlog counts and changes neither a
context nor a queue. -/
def Obligations.BrowseBuildAnswers : Prop :=
  ∀ (s : State) (f : FeedNo) (r : Raster) (slices : List BuildSlice) (k sub fil : Nat),
    let b := (s.take f).copy
    let i := k / (s.take f).divisor
    let t := (s.buildBrowse f r slices k sub fil).2
    (b.status = .ended → s.buildBrowse f r slices k sub fil = ((.none, none), s)) ∧
    (b.status = .active → b.slotCount ≤ i →
      (s.buildBrowse f r slices k sub fil).1 = (.none, none) ∧
      t = { s.setTake f { s.take f with copy := { b with status := .ended, reason := some .areaFull } } with
        pool := t.pool } ∧
      t.pool.bytes = s.pool.bytes ∧ (b.outstanding ≠ none → t.pool = s.pool) ∧
      (b.outstanding = none → ∀ n : Fin 16, t.pool.contexts[n] =
        if (s.pool.contexts[n]).map Prod.fst = some f then none else s.pool.contexts[n])) ∧
    (b.status = .active → i < b.slotCount →
    (b.outstanding = none → s.store.held .browse = false → s.store.browseQ.length < 32 →
      (s.buildBrowse f r slices k sub fil).1 = (.scheduled, some i) ∧
      (t.take f).copy.outstanding = some (k, i) ∧
      (t.take f).copy.totals = { b.totals with scheduled := b.totals.scheduled + 1 } ∧
      ∃ q, (q ∈ t.store.browseQ ∨ ∃ x ∈ t.store.flying, x.request = q) ∧ q.take = f ∧ q.subject = .browse k i ∧
        q.address = (s.take f).browse.base + i * b.slotBytes ∧ q.length = b.slotBytes) ∧
    (b.outstanding ≠ none →
      (s.buildBrowse f r slices k sub fil).1 = (.skipped, some i) ∧ t.store = s.store ∧ t.pool = s.pool ∧
      (t.feed f).interval.browseSkip = satAdd (s.feed f).interval.browseSkip 1 ∧
      (t.take f).copy = { b with totals := { b.totals with skippedCollide := b.totals.skippedCollide + 1 } }) ∧
    (b.outstanding = none → s.store.held .browse = true ∨ 32 ≤ s.store.browseQ.length →
      (s.buildBrowse f r slices k sub fil).1 = (.skipped, some i) ∧ t.store = s.store ∧ t.pool = s.pool ∧
      (t.feed f).interval.browseSkip = satAdd (s.feed f).interval.browseSkip 1 ∧
      (t.take f).copy = { b with totals := { b.totals with skippedBacklog := b.totals.skippedBacklog + 1 } }))

/-- R107, R116, R117: the three planes built from a frame's slices have exactly the pixel bytes of R107's table. -/
def Obligations.BuiltPlanesHavePixelBytes : Prop :=
  ∀ (r : Raster) (p : Profile) (slices : List BuildSlice), p ≠ Profile.none → slices.length = r.slices →
    (∀ b ∈ slices, ∀ bs, b = BuildSlice.read bs → 8 + 2 * r.blocks ≤ bs.length) →
    let v := planesFor r p slices
    v.luma.flatten.length = (lumaSize r p).1 * (lumaSize r p).2 ∧
    v.cb.flatten.length = (chromaSize r p).1 * (chromaSize r p).2 ∧
    v.cr.flatten.length = (chromaSize r p).1 * (chromaSize r p).2 ∧
    v.luma.flatten.length + v.cb.flatten.length + v.cr.flatten.length = pixelBytes r p

/-! ## Takes -/

/-- R80, R82, R109, R110: an accepted ARM TAKE sets the take, its window, its counts and its contexts up; NO_TAKE,
PATH_DISABLED and the monitor's state stay. Its reply names the contexts in position order. -/
def Obligations.ArmTakeSetsTakeUp : Prop :=
  ∀ (t : Nat) (s : State) (body : Bytes) (a : ArmArgs) (f : FeedNo) (r : Raster) (p : Profile),
    s.dispatches 0x20 body = true → parseArm body = some a → a.feed = f.val → (s.take f).state = .idle →
    (s.feed f).entry.enable = true → Raster.ofCode a.raster = some r → Profile.ofCode a.profile = some p →
    s.areasFit a p = true → badChoice (contextsNeeded r p) a.choice = false →
    s.lacksContexts (contextsNeeded r p) a.choice = false →
    exec (.armTake t) s =
      .next (({ s.start t with pool := { s.pool with
          contexts := allocate f 0 (s.chosen (contextsNeeded r p) a.choice) s.pool.contexts } }.setFeed f
        { s.feed f with
          intake := { (s.feed f).intake with paths := Vector.replicate 4 PathAcc.reset }
          window := Window.reset, interval := ComposeInterval.reset
          take :=
            { state := .armed, endCause := none, id := a.id, profile := p, divisor := clamp 1 4 a.divisor
              essence := a.essence, browse := a.browse, index := a.index
              comp := { raster := some r, rate := none, nextOrdinal := 0, nextOffset := 0, lastRef := none,
                        sources := List.replicate r.slices none, totals := ComposeTotals.reset }
              page := PageBuffer.reset, timer := none, covered := 0, completed := [], unwritten := []
              frontier := 0, totals := IndexTotals.reset
              copy := { status := if p = Profile.none then .inactive else .active, reason := none
                        slotBytes := slotBytes r p, slotCount := a.browse.length / slotBytes r p
                        outstanding := none, totals := BrowseTotals.reset } } }).withReply
        (Reply.done 0x20 (!decide (1 ≤ a.divisor ∧ a.divisor ≤ 4))
          ((s.chosen (contextsNeeded r p) a.choice).flatMap fun (c : Fin 16) => be1 c.val)))

/-- R81: ARM TAKE's refusals, in order; a refused request changes nothing. -/
def Obligations.ArmTakeRefusals : Prop :=
  ∀ (t : Nat) (s : State) (body : Bytes) (a : ArmArgs) (f : FeedNo), s.dispatches 0x20 body = true →
    parseArm body = some a → a.feed = f.val →
    let refused := fun o => exec (.armTake t) s = .next ((s.start t).withReply (Reply.refused 0x20 o))
    ((s.take f).state ≠ .idle → refused .refusedState) ∧
    ((s.take f).state = .idle → (s.feed f).entry.enable = false → refused .refusedState) ∧
    ((s.take f).state = .idle → (s.feed f).entry.enable = true →
      (Raster.ofCode a.raster = none ∨ Profile.ofCode a.profile = none → refused .badArgument) ∧
      ∀ r p, Raster.ofCode a.raster = some r → Profile.ofCode a.profile = some p →
        (s.areasFit a p = false → refused .badArgument) ∧
        (s.areasFit a p = true → badChoice (contextsNeeded r p) a.choice = true → refused .badArgument) ∧
        (s.areasFit a p = true → badChoice (contextsNeeded r p) a.choice = false →
          s.lacksContexts (contextsNeeded r p) a.choice = true → refused .noResource))

/-- R81: the areas of takes that are not IDLE share no byte, within a take and between takes: every step keeps it. -/
def Obligations.AreasStayApart : Prop :=
  ∀ s t : State, s.areasApart → step s = .next t → t.areasApart

/-- R84, R86: STOP TAKE of an ARMED take, or of a RECORDING take whose window holds no record, is DONE and leaves it
DRAINING with end cause STOPPED, its open page final, its browse ended and its base unset; the final snapshot is
queued, in flight or owed. R36: a window that holds records is flushed first: every frame from the base to the last record
is released and becomes an ordinal, the first carrying the mark. R37, R94: unless a release ends the recording, which a full
area or the page buffer does; the reply is DONE then too. -/
def Obligations.StopTakeDrains : Prop :=
  (∀ (t : Nat) (s : State) (f : FeedNo), s.dispatches 0x21 (be1 f.val) = true →
    ((s.take f).state = .armed ∧ (s.window f).base = none ∨ (s.take f).state = .recording) →
    (s.window f).records = [] →
    ∃ t', exec (.stopTake t) s = .next t' ∧ (t'.take f).state = .draining ∧
      (t'.take f).endCause = some .stopped ∧ (t'.take f).page.finalPage = some (s.take f).page.openPage ∧
      (t'.window f).base = none ∧ (t'.window f).records = [] ∧ (t'.take f).copy.status ≠ .active ∧
      (t'.take f).comp = (s.take f).comp ∧ t'.link.reply = Reply.done 0x21 false [] ∧
      t'.link.processing = none ∧
      ((t'.take f).page.owed = true ∧ (t'.take f).timer ≠ none ∨
       (t'.take f).page.owed = false ∧
        ∃ r, (r ∈ t'.store.indexQ ∨ ∃ i ∈ t'.store.flying, i.request = r) ∧
          r.isPage f (s.take f).page.openPage = true)) ∧
  ∀ (t : Nat) (s : State) (f : FeedNo) (b : Half) (before : List FrameRecord) (r : FrameRecord),
    s.dispatches 0x21 (be1 f.val) = true → s.windowsSound → (s.take f).state = .recording →
    (s.window f).base = some b → (s.window f).records = before ++ [r] →
    let w := s.window f
    let n := distance b r.frame + 1
    ∃ t', exec (.stopTake t) s = .next t' ∧ t'.link.reply = Reply.done 0x21 false [] ∧ t'.link.processing = none ∧
      (t'.window f).base = none ∧ (t'.window f).records = [] ∧ (t'.window f).mark = false ∧
      (t'.take f).copy.status ≠ .active ∧ s.otherFeedsSame t' f ∧
      ((t'.take f).state = .draining ∧ (t'.take f).endCause = some .stopped ∧
        (t'.take f).comp.nextOrdinal = (s.take f).comp.nextOrdinal + n ∧
        (t'.window f).totals.complete + (t'.window f).totals.partials + (t'.window f).totals.absent =
          w.totals.complete + w.totals.partials + w.totals.absent + BitVec.ofNat 32 n ∧
        (t'.window f).totals.discarded = w.totals.discarded ∧
        (t'.take f).page.finalPage = some (t'.take f).page.openPage ∧
        ((t'.take f).page.owed = true ∧ (t'.take f).timer ≠ none ∨
         (t'.take f).page.owed = false ∧
          ∃ q, (q ∈ t'.store.indexQ ∨ ∃ i ∈ t'.store.flying, i.request = q) ∧
            q.isPage f (t'.take f).page.openPage = true) ∨
       (t'.take f).state = .draining ∧ (t'.take f).endCause = some .indexFull ∧
        (t'.take f).comp.nextOrdinal < (s.take f).comp.nextOrdinal + n ∧
        ¬ ((t'.take f).comp.nextOrdinal / 63 < (s.take f).index.length / 2048 ∧
           (t'.take f).comp.nextOrdinal ≠ 4294967295) ∨
       (t'.take f).state = .draining ∧ (t'.take f).endCause = some .essenceFull ∧
        (t'.take f).comp.nextOrdinal < (s.take f).comp.nextOrdinal + n ∨
       (t'.take f).state = .faulted ∧ (t'.take f).endCause = some .indexFailed)

/-- R88, R123, R38, R143: ABORT TAKE of an ARMED take enters ABORTED at once: end cause ABORTED, its table emptied,
TAKE_ENDED pending, its browse ended. One in RECORDING or DRAINING is then ABORTED when none of its requests is in
flight and ABORTING otherwise, with nothing of it queued, its window empty and its timer stopped. -/
def Obligations.AbortTakeEndsTake : Prop :=
  (∀ (t : Nat) (s : State) (f : FeedNo), s.dispatches 0x22 (be1 f.val) = true → (s.take f).state = .armed →
      ∃ t', exec (.abortTake t) s = .next t' ∧ (t'.take f).state = .aborted ∧
        (t'.take f).endCause = some .aborted ∧ (∀ e ∈ (t'.take f).comp.sources, e = none) ∧
        (t'.link.pending.feeds[f]).getLsbD 17 = true ∧ (t'.take f).copy.status ≠ .active ∧
        t'.link.reply = Reply.done 0x22 false [] ∧ t'.store = s.store ∧ s.otherFeedsSame t' f ∧
        ((s.take f).copy.status = .active → (s.take f).copy.outstanding = none →
          ∀ (c : Fin 16) (n : Nat), t'.pool.contexts[c] ≠ some (f, n))) ∧
  (∀ (t : Nat) (s : State) (f : FeedNo), s.dispatches 0x22 (be1 f.val) = true →
      ((s.take f).state = .recording ∨ (s.take f).state = .draining) →
      ∃ t', exec (.abortTake t) s = .next t' ∧ (t'.take f).endCause = some .aborted ∧
        (t'.take f).state = (if s.store.anyFlying f then .aborting else .aborted) ∧
        t'.store.anyQueued f = false ∧ (t'.window f).records = [] ∧ (t'.window f).base = none ∧
        (t'.take f).timer = none ∧ (t'.take f).page.owed = false ∧ (t'.take f).page.waiting = none ∧
        (t'.take f).unwritten = (s.take f).unwritten ∧ t'.link.reply = Reply.done 0x22 false [] ∧
        s.otherFeedsSame t' f)

/-- R91: RELEASE TAKE of a take that has ended returns it to IDLE with its page buffer and its table empty, and keeps
the rest of its record; while a request of it is in flight or quarantined it is refused REFUSED_BUSY. -/
def Obligations.ReleaseTakeReturnsToIdle : Prop :=
  ∀ (t : Nat) (s : State) (f : FeedNo), s.dispatches 0x23 (be1 f.val) = true →
    ((s.take f).state = .closed ∨ (s.take f).state = .aborted ∨ (s.take f).state = .faulted) →
    (s.store.anyBound f = true →
      exec (.releaseTake t) s = .next ((s.start t).withReply (Reply.refused 0x23 .refusedBusy))) ∧
    (s.store.anyBound f = false → (∀ e ∈ (s.take f).comp.sources, e = none) →
      exec (.releaseTake t) s =
        .next (((s.start t).setTake f { s.take f with
          state := .idle, comp := { (s.take f).comp with sources := [] }, page := PageBuffer.reset }).withReply
          (Reply.done 0x23 false [])))

/-- R95, R96, R97: at the publish timer's expiry a RECORDING take with entries not yet captured, no INDEX request of its
open page queued, room in the INDEX queue and a free cell has its page's snapshot taken into the head cell: the
captured count becomes the entry count and the timer stops. R94: an entry joins the open page, or turns it; the 63rd fills
it and has its snapshot taken or owed; an open page still owed at its turn has its snapshot retried, waits when it cannot
be taken, and with another page waiting faults the take with INDEX_FAILED; what is owed is retried at the next entry. The
timer starts, when stopped, at every entry (that it does so behind a snapshot just taken is log entry 11, and that the
fault empties the page buffer log entry 19). -/
def Obligations.TimerAndEntriesTakeSnapshots : Prop :=
  (∀ (t : Nat) (s : State) (f : FeedNo) (e cell : Nat) (cells : CellMem), (s.take f).timer = some e →
    e ≤ max s.time t → (s.take f).state = .recording → (s.take f).page.waiting = none →
    (s.take f).page.captured < (s.take f).page.entries.length →
    (∀ r ∈ s.store.indexQ, r.isPage f (s.take f).page.openPage = false) → s.store.indexQ.length < 16 →
    s.cells.acquire = some (cell, cells) →
    ∃ t', exec (.publishTimerExpiry t f) s = .next t' ∧ (t'.take f).timer = none ∧
      (t'.take f).page.captured = (s.take f).page.entries.length ∧ (t'.take f).page.owed = false ∧
      (t'.take f).page.entries = (s.take f).page.entries ∧
      (t'.take f).totals = { (s.take f).totals with queued := (s.take f).totals.queued + 1 } ∧
      t'.cells = cells.fill cell (pageImage (s.take f) (s.take f).page.openPage (s.take f).page.entries
        ((s.take f).page.acc.add (s.health f)) false (max s.time t)) ∧
      t'.health f = (s.health f).autoclears ∧
      ∃ r, (r ∈ t'.store.indexQ ∨ ∃ i ∈ t'.store.flying, i.request = r) ∧ r.take = f ∧
        r.subject = .index (s.take f).page.openPage (s.take f).page.entries.length cell ∧
        r.address = (s.take f).index.base + 2048 * (s.take f).page.openPage ∧ r.length = 2048) ∧
  ∀ (s : State) (f : FeedNo) (e : IndexEntry), (s.take f).state = .recording →
    let b := (s.take f).page
    let t := s.joinEntry f e
    let timer := (s.take f).timer.getD (s.time + (s.feed f).entry.publish * 1000)
    let turned : PageBuffer := { openPage := b.openPage + 1, entries := [e], captured := 0, owed := false,
                                 acc := { warn := false, error := false, conds := 0 }, waiting := none,
                                 finalPage := b.finalPage }
    let kept := t.store = s.store ∧ t.cells = s.cells ∧ t.health f = s.health f ∧ (t.take f).timer = some timer
    let room := fun page => s.store.noneQueued f page ∧ s.store.indexQ.length < 16
    s.otherFeedsSame t f ∧
    (e.ordinal / 63 = b.openPage → b.entries.length < 62 → b.owed = false → b.waiting = none →
      t = s.setTake f { s.take f with page := { b with entries := b.entries ++ [e] }, timer := some timer }) ∧
    (e.ordinal / 63 = b.openPage → b.entries.length = 62 → b.waiting = none →
      (∀ cell cells, room b.openPage → s.cells.acquire = some (cell, cells) →
        s.snapshotTaken t f b.openPage (b.entries ++ [e]) b.acc cell cells ∧
        (t.take f).page = { b with
          entries := b.entries ++ [e], captured := 63, owed := false, acc := b.acc.add (s.health f) } ∧
        (t.take f).timer = some (s.time + (s.feed f).entry.publish * 1000)) ∧
      (s.snapshotStuck f b.openPage →
        (t.take f).page = { b with entries := b.entries ++ [e], owed := true } ∧ kept)) ∧
    (e.ordinal / 63 = b.openPage → b.entries.length < 62 → b.captured ≤ b.entries.length →
      ∀ cell cells, s.cells.acquire = some (cell, cells) →
        (∀ w, b.owed = false → b.waiting = some w → room w.page →
          s.snapshotTaken t f w.page w.entries w.acc cell cells ∧ (t.take f).timer = some timer ∧
          (t.take f).page = { b with entries := b.entries ++ [e], waiting := none }) ∧
        (b.owed = true → b.waiting = none → room b.openPage →
          s.snapshotTaken t f b.openPage (b.entries ++ [e]) b.acc cell cells ∧
          (t.take f).page = { b with
            entries := b.entries ++ [e], captured := b.entries.length + 1, owed := false
            acc := b.acc.add (s.health f) } ∧
          (t.take f).timer = some (s.time + (s.feed f).entry.publish * 1000))) ∧
    (e.ordinal / 63 = b.openPage + 1 →
      (b.owed = false → b.waiting = none →
        t = s.setTake f { s.take f with page := turned, timer := some timer }) ∧
      (b.owed = true → b.waiting = none →
        (∀ cell cells, room b.openPage → s.cells.acquire = some (cell, cells) →
          s.snapshotTaken t f b.openPage b.entries b.acc cell cells ∧ (t.take f).page = turned ∧
          (t.take f).timer = some (s.time + (s.feed f).entry.publish * 1000)) ∧
        (s.snapshotStuck f b.openPage →
          (t.take f).page = { turned with
            waiting := some { page := b.openPage, entries := b.entries, acc := b.acc } } ∧ kept)) ∧
      ∀ w, b.owed = true → b.waiting = some w → s.snapshotStuck f w.page → s.snapshotStuck f b.openPage →
        s.faultedBy t f .indexFailed ∧ (t.take f).page = PageBuffer.reset)

/-- R95, R99: FLUSH INDEX of a RECORDING take with no waiting page, when the open page's request is queued: the
snapshot is rebuilt in that request's cell and the queue keeps its order (the code of the answer is log entry 17). -/
def Obligations.FlushIndexRebuildsQueuedPage : Prop :=
  ∀ (t : Nat) (s : State) (f : FeedNo) (before after : List Request) (r : Request) (n cell : Nat),
    s.dispatches 0x25 (be1 f.val) = true → (s.take f).state = .recording → (s.take f).page.waiting = none →
    s.store.indexQ = before ++ r :: after → r.take = f → r.subject = .index (s.take f).page.openPage n cell →
    (∀ q ∈ before ++ after, q.isPage f (s.take f).page.openPage = false) →
    ∃ t', exec (.flushIndex t) s = .next t' ∧ t'.link.reply = Reply.done 0x25 false [1] ∧
      t'.store.indexQ = before ++
        { r with subject := .index (s.take f).page.openPage (s.take f).page.entries.length cell } :: after ∧
      t'.cells = s.cells.fill cell (pageImage (s.take f) (s.take f).page.openPage (s.take f).page.entries
        ((s.take f).page.acc.add (s.health f)) false (max s.time t)) ∧
      (t'.take f).page.captured = (s.take f).page.entries.length ∧ (t'.take f).page.owed = false ∧
      (t'.take f).timer = none ∧
      (t'.take f).totals = { (s.take f).totals with rebuilt := (s.take f).totals.rebuilt + 1 } ∧
      t'.out.writes = [] ∧ s.otherFeedsSame t' f

/-- R102: published frontier ≤ covered-through ≤ released holds of every take, with what keeps it true of the
requests and pages behind it: every step keeps it, and no step of a take between ARM and RELEASE takes its published
frontier back. -/
def Obligations.FrontierStaysBehindCoverage : Prop :=
  ∀ s t : State, s.takesSound → step s = .next t → t.takesSound ∧
    ∀ f, (s.take f).state ≠ .idle → (t.take f).state ≠ .idle → (s.take f).frontier ≤ (t.take f).frontier

/-! ## Cells -/

/-- R42, R43, R44: acquiring takes the head of the free list with count 1, adding a holding to a held cell adds 1 and
dropping one takes 1 and frees the cell at 0, at the list's tail; each keeps every cell exactly one of free and held,
and each is all that happens to any count. -/
def Obligations.CellCountsStaySound : Prop :=
  ∀ m : CellMem, m.sound →
    (∀ c m', m.acquire = some (c, m') → m'.sound ∧ freeCells m.free = c :: freeCells m'.free ∧ m.count c = 0 ∧
      (∀ n, m'.count n = if n = c then 1 else m.count n) ∧ m'.freeLow = min m.freeLow m'.freeCount) ∧
    (m.acquire = none ↔ m.freeCount = 0) ∧
    (∀ c, 0 < m.count c → (m.hold c).sound ∧ ∀ n, (m.hold c).count n = if n = c then m.count c + 1 else m.count n) ∧
    ∀ c, 0 < m.count c → (m.drop c).sound ∧ (∀ n, (m.drop c).count n = if n = c then m.count c - 1 else m.count n) ∧
      freeCells (m.drop c).free = freeCells m.free ++ (if m.count c = 1 then [c] else [])

/-- R42, R45 to R48, R50, R52, R54: every cell's reference count is the number of its holdings, by the windows' fragments,
the slice source tables and the requests queued, in flight or quarantined, and every cell is exactly one of free and
held: every step keeps it. -/
def Obligations.CellCountsMatchHoldings : Prop :=
  ∀ s t : State, s.holdingsSound → step s = .next t → t.holdingsSound

/-- The memories' canonical form (log entry 6) is kept by every step. -/
def Obligations.MemoriesStayCanonical : Prop :=
  ∀ s t : State, s.memoriesCanonical → step s = .next t → t.memoriesCanonical

/-! ## The store port -/

/-- R129: the INDEX, ESSENCE and BROWSE queues never hold more than 16, 64 and 32 requests, and the INDEX queue at most
one for any page of a take: every step keeps it. -/
def Obligations.QueuesStayWithinCapacity : Prop :=
  ∀ s t : State, s.queuesFit → s.oneQueuedPerPage → step s = .next t → t.queuesFit ∧ t.oneQueuedPerPage

/-- R133: at most one write of any one index page of a take is in flight or quarantined: every step keeps it. -/
def Obligations.OneWritePerIndexPage : Prop :=
  ∀ s t : State, s.oneWritePerPage → step s = .next t → t.oneWritePerPage

/-- R132, R133, R145: what a lane's arbiter chooses: nothing while the port settles; else the request that joined first
among the eligible ones of the highest class that has one, INDEX before ESSENCE before BROWSE. R135, R190: issuing it binds
it to the lane's lowest free tag with the current epoch and a deadline one store timeout off, counts ISSUED, sends the
WRITE's bytes and changes no holding. R134: the lanes choose until no lane has both a free tag and a choice. At the end of
settling each lane's arbiter chooses; with nothing queued nothing else changes. That a SETTLING_END before its time only
passes the time is the model's choice (log entry 2). -/
def Obligations.ArbiterTakesOldestOfHighestClass : Prop :=
  (∀ (p : StorePort) (lane : LaneNo),
    let may := fun (c : StoreClass) => p.held c = false ∧ (p.laneSet c).getLsbD lane.val = true
    (p.settling ≠ .ended → p.choose lane = none) ∧
    (∀ r p', p.choose lane = some (r, p') → ∃ c before after, may c ∧ p.queue c = before ++ r :: after ∧
      p.pageFree r = true ∧ (∀ q ∈ before, p.pageFree q = false) ∧ p' = p.setQueue c (before ++ after) ∧
      ∀ d, d.code < c.code → may d → ∀ q ∈ p.queue d, p.pageFree q = false) ∧
    (p.settling = .ended → p.choose lane = none → ∀ c, may c → ∀ q ∈ p.queue c, p.pageFree q = false)) ∧
  (∀ (s : State) (lane : LaneNo),
    (s.tryIssue lane = none ↔ s.store.choose lane = none ∨ ∀ g : TagNo, s.store.tag lane g ≠ .free) ∧
    ∀ (r : Request) (p : StorePort) (tag : TagNo), s.store.choose lane = some (r, p) →
      s.store.tag lane tag = .free → (∀ g : TagNo, g < tag → s.store.tag lane g ≠ .free) →
      s.tryIssue lane = some { s with
        store := { p with lanes := s.store.lanes.set lane { s.store.lanes[lane] with
          tags := s.store.lanes[lane].tags.set tag (.inFlight
            { request := r, epoch := s.store.epoch, issued := s.time
              deadline := s.time + s.store.settings.timeout * 1000 })
          issued := s.store.lanes[lane].issued + 1 } }
        out := { s.out with writes := s.out.writes ++
          [{ lane := lane
             bytes := be1 s.store.epoch.toNat ++ be1 lane.val ++ be1 tag.val ++ [0] ++ be8 r.address ++
               be4 r.length ++ s.requestData r }] } }) ∧
  (∀ (s : State) (lane : LaneNo), s.arbitrate.tryIssue lane = none) ∧
  ∀ (t e : Nat) (s : State), s.store.settling = .until e →
    (max s.time t < e → exec (.settlingEnd t) s = .next (s.start t)) ∧
    (e ≤ max s.time t → exec (.settlingEnd t) s =
      .next ({ s.start t with store := { s.store with settling := .ended } }).arbitrate) ∧
    (e ≤ max s.time t → s.store.indexQ = [] → s.store.essenceQ = [] → s.store.browseQ = [] →
      exec (.settlingEnd t) s = .next { s.start t with store := { s.store with settling := .ended } })

/-- R136, R141, R190: a COMPLETION of another epoch, of a tag byte of 8 or more or of a free tag is stray: STRAY
increases by 1, STORE_STRAY becomes pending and nothing else changes. -/
def Obligations.StrayCompletionIsCounted : Prop :=
  ∀ (t : Nat) (lane : LaneNo) (epoch tag result pad : Byte) (s : State),
    (epoch.toNat ≠ s.store.epoch.toNat ∨ 8 ≤ tag.toNat ∨
      ∃ g : TagNo, tag.toNat = g.val ∧ s.store.tag lane g = .free) →
    exec (.completion t lane epoch tag result pad) s =
      .next { s.start t with
        store := { s.store with stray := s.store.stray + 1 }
        link := { s.link with pending := { s.link.pending with device := s.link.pending.device ||| 0b0100 } } }

/-- R137, R87, R100 to R102, R105: a COMPLETION OK, every queue empty: its tag is free, the lane's OK count increases by 1,
its holdings are dropped and no other tag changes. An essence write's ordinal leaves the pending list. An index write is
counted, and its page's entries extend the coverage, which takes up the completed pages that now follow it; a page ahead
of the coverage joins the completed list. The frontier follows, and FRONTIER is pending when it rises. A RECORDING take
records on; a DRAINING one enters CLOSED exactly when nothing of it is owed or in flight, R87's third condition then
holding by the model's reading (log entry 20). -/
def Obligations.OkCompletionAdvancesTake : Prop :=
  ∀ (t : Nat) (lane : LaneNo) (g : TagNo) (pad : Byte) (s : State) (i : Issued),
    let f := i.request.take
    let u := s.take f
    s.store.tag lane g = .inFlight i → i.request.cls ≠ .browse → (u.state = .recording ∨ u.state = .draining) →
    s.store.indexQ = [] → s.store.essenceQ = [] → s.store.browseQ = [] →
    ∃ t', exec (.completion t lane (BitVec.ofNat 8 s.store.epoch.toNat) (BitVec.ofNat 8 g.val) 0 pad) s = .next t' ∧
      t'.store.tag lane g = .free ∧ t'.store.lanes[lane].ok = s.store.lanes[lane].ok + 1 ∧
      (∀ (l : LaneNo) (h : TagNo), (l, h) ≠ (lane, g) → t'.store.tag l h = s.store.tag l h) ∧
      s.otherFeedsSame t' f ∧
      (∀ k gather, i.request.subject = .essence k gather → (t'.take f).unwritten = u.unwritten.erase k ∧
        (t'.take f).covered = u.covered ∧ (t'.take f).completed = u.completed ∧ (t'.take f).totals = u.totals) ∧
      (∀ page count cell, i.request.subject = .index page count cell →
        (t'.take f).unwritten = u.unwritten ∧
        (t'.take f).totals = { u.totals with writesOk := u.totals.writesOk + 1 } ∧
        (63 * page + count ≤ u.covered →
          (t'.take f).covered = u.covered ∧ (t'.take f).completed = u.completed) ∧
        (63 * page ≤ u.covered → u.covered < 63 * page + count →
          (∀ c ∈ u.completed, 63 * c.1 ≠ 63 * page + count) →
          (t'.take f).covered = 63 * page + count) ∧
        (∀ n rest, count = 63 → 63 * page ≤ u.covered → u.covered < 63 * page + 63 →
          u.completed = (page + 1, n) :: rest → n < 63 → (∀ c ∈ rest, page + 1 < c.1) →
          (t'.take f).covered = 63 * (page + 1) + n ∧ (t'.take f).completed = rest) ∧
        (u.covered < 63 * page → (∀ c ∈ u.completed, c.1 < page) →
          (t'.take f).covered = u.covered ∧ (t'.take f).completed = u.completed ++ [(page, count)])) ∧
      (t'.take f).frontier =
        min (t'.take f).covered ((t'.take f).unwritten.head?.getD u.comp.nextOrdinal) ∧
      ((t'.link.pending.feeds[f]).getLsbD noticeFrontier =
        ((s.link.pending.feeds[f]).getLsbD noticeFrontier || decide (u.frontier < (t'.take f).frontier))) ∧
      (t'.take f).endCause = u.endCause ∧
      (u.state = .recording → (t'.take f).state = .recording ∧ t'.cells = s.cells.dropAll i.request.holdings) ∧
      (u.state = .draining → s.drainsOn f lane g →
        (t'.take f).state = .draining ∧ t'.cells = s.cells.dropAll i.request.holdings) ∧
      (u.state = .draining → ¬ s.drainsOn f lane g →
        (t'.take f).state = .closed ∧ (∀ e ∈ (t'.take f).comp.sources, e = none) ∧
        (t'.link.pending.feeds[f]).getLsbD noticeTakeEnded = true ∧
        t'.cells = (s.cells.dropAll i.request.holdings).dropAll (sourceCells u.comp.sources))

/-- R140, R122: a COMPLETION of the current epoch on a quarantined tag frees it and drops its holdings, whatever the
result, and the lane's LATE count increases by 1 (every queue empty). An essence or index owner is told nothing; a browse
write's busy clears, its slot having been counted lost at the timeout, and an ENDED browse gives up its contexts. -/
def Obligations.LateCompletionFreesTag : Prop :=
  ∀ (t : Nat) (lane : LaneNo) (g : TagNo) (result pad : Byte) (s : State) (i : Issued),
    s.store.tag lane g = .quarantined i → s.store.indexQ = [] → s.store.essenceQ = [] → s.store.browseQ = [] →
    let f := i.request.take
    ∃ t', exec (.completion t lane (BitVec.ofNat 8 s.store.epoch.toNat) (BitVec.ofNat 8 g.val) result pad) s =
        .next t' ∧
      t'.store.tag lane g = .free ∧ t'.store.lanes[lane].late = s.store.lanes[lane].late + 1 ∧
      t'.store.lanes[lane].ok = s.store.lanes[lane].ok ∧ t'.store.lanes[lane].failed = s.store.lanes[lane].failed ∧
      t'.store.lanes[lane].stalled = false ∧ t'.cells = s.cells.dropAll i.request.holdings ∧ t'.link = s.link ∧
      (i.request.cls ≠ .browse → t'.feeds = s.feeds ∧ t'.pool = s.pool) ∧
      (i.request.cls = .browse →
        t'.feed f = { s.feed f with take := { s.take f with copy := { (s.take f).copy with outstanding := none } } } ∧
        s.otherFeedsSame t' f ∧
        ((s.take f).copy.status = .ended → ∀ (c : Fin 16) (m : Nat), t'.pool.contexts[c] ≠ some (f, m)) ∧
        ((s.take f).copy.status ≠ .ended → t'.pool = s.pool))

/-- R121, R123, R103, R137, R138: a COMPLETION of a browse write in flight (every queue empty) frees its tag, clears busy
and counts the slot written or lost; an ENDED browse gives its contexts up, and another keeps them. Coverage, pending
list and what the take has composed stay, and the frontier stands as R102 gives. A take that is neither DRAINING nor
ABORTING keeps its state; a DRAINING one closes when nothing of it is owed or in flight any more (R87; log entry 20), and
an ABORTING one ends ABORTED when nothing is in flight (R88). -/
def Obligations.BrowseCompletionFreesContexts : Prop :=
  ∀ (t : Nat) (lane : LaneNo) (g : TagNo) (result pad : Byte) (s : State) (i : Issued) (k n : Nat),
    let f := i.request.take
    let u := s.take f
    s.store.tag lane g = .inFlight i → i.request.subject = .browse k n →
    s.store.indexQ = [] → s.store.essenceQ = [] → s.store.browseQ = [] →
    ∃ t', exec (.completion t lane (BitVec.ofNat 8 s.store.epoch.toNat) (BitVec.ofNat 8 g.val) result pad) s =
        .next t' ∧
      let held := { s with cells := s.cells.dropAll i.request.holdings }
      t'.store.tag lane g = .free ∧
      (∀ (l : LaneNo) (h : TagNo), (l, h) ≠ (lane, g) → t'.store.tag l h = s.store.tag l h) ∧
      s.otherFeedsSame t' f ∧
      (result = 0 → t'.store.lanes[lane].ok = s.store.lanes[lane].ok + 1 ∧
        (t'.take f).copy = { u.copy with
          outstanding := none, totals := { u.copy.totals with written := u.copy.totals.written + 1 } }) ∧
      (result ≠ 0 → t'.store.lanes[lane].failed = s.store.lanes[lane].failed + 1 ∧
        (t'.take f).copy = { u.copy with
          outstanding := none, totals := { u.copy.totals with lostFailed := u.copy.totals.lostFailed + 1 } }) ∧
      (u.copy.status ≠ .ended → t'.pool = s.pool) ∧
      (u.copy.status = .ended → ∀ (c : Fin 16) (m : Nat), t'.pool.contexts[c] ≠ some (f, m)) ∧
      (t'.take f).endCause = u.endCause ∧ (t'.take f).covered = u.covered ∧ (t'.take f).completed = u.completed ∧
      (t'.take f).unwritten = u.unwritten ∧ (t'.take f).page = u.page ∧
      (t'.take f).comp.nextOrdinal = u.comp.nextOrdinal ∧
      (t'.take f).frontier = min u.covered (u.unwritten.head?.getD u.comp.nextOrdinal) ∧
      (u.state ≠ .draining → u.state ≠ .aborting → (t'.take f).state = u.state ∧ t'.cells = held.cells) ∧
      (u.state = .draining → s.drainsOn f lane g → (t'.take f).state = .draining ∧ t'.cells = held.cells) ∧
      (u.state = .draining → ¬ s.drainsOn f lane g → held.endedAs t' f .closed) ∧
      (u.state = .aborting → s.fliesElse f lane g → (t'.take f).state = .aborting ∧ t'.cells = held.cells) ∧
      (u.state = .aborting → ¬ s.fliesElse f lane g → held.endedAs t' f .aborted)

/-- R138, R139, R89: a COMPLETION FAILED (every queue empty), or the timeout, of an essence or index write of a take in
RECORDING or DRAINING faults the take with ESSENCE_FAILED or INDEX_FAILED; the completion frees the tag, the timeout
quarantines it with its holdings. R122: a browse write's timeout counts its slot lost and leaves busy set. R142: the
timeout that quarantines a lane's last tag raises LANE_STALLED, and no other does. -/
def Obligations.FailedWriteFaultsTake : Prop :=
  (∀ (t : Nat) (lane : LaneNo) (g : TagNo) (result pad : Byte) (s : State) (i : Issued) (cause : EndCause),
    let f := i.request.take
    s.store.tag lane g = .inFlight i → result ≠ 0 → ((s.take f).state = .recording ∨ (s.take f).state = .draining) →
    s.store.indexQ = [] → s.store.essenceQ = [] → s.store.browseQ = [] →
    (cause = .essenceFailed ∧ i.request.cls = .essence ∨ cause = .indexFailed ∧ i.request.cls = .index) →
    ∃ t', exec (.completion t lane (BitVec.ofNat 8 s.store.epoch.toNat) (BitVec.ofNat 8 g.val) result pad) s =
        .next t' ∧
      t'.store.tag lane g = .free ∧ t'.store.lanes[lane].failed = s.store.lanes[lane].failed + 1 ∧
      s.faultedBy t' f cause) ∧
  ∀ (t : Nat) (lane : LaneNo) (g : TagNo) (s : State) (i : Issued),
    let f := i.request.take
    s.store.tag lane g = .inFlight i → i.deadline ≤ max s.time t →
    ∃ t', exec (.storeTimeout t lane g) s = .next t' ∧ t'.store.tag lane g = .quarantined i ∧
      t'.store.lanes[lane].timeout = s.store.lanes[lane].timeout + 1 ∧
      t'.link.pending.device = s.link.pending.device |||
        (if ∀ h : TagNo, h ≠ g → (s.store.tag lane h).isQuarantined = true then 0b1000 else 0) ∧
      (∀ cause, (s.take f).state = .recording ∨ (s.take f).state = .draining →
        (cause = .essenceFailed ∧ i.request.cls = .essence ∨ cause = .indexFailed ∧ i.request.cls = .index) →
        s.faultedBy t' f cause) ∧
      (i.request.cls = .browse → (s.take f).state ≠ .draining → (s.take f).state ≠ .aborting →
        (t'.take f).state = (s.take f).state ∧ t'.cells = s.cells ∧ t'.pool = s.pool ∧
        (t'.take f).copy = { (s.take f).copy with totals := { (s.take f).copy.totals with
          lostTimeout := (s.take f).copy.totals.lostTimeout + 1 } } ∧ s.otherFeedsSame t' f)

/-- R131: SET STORE replaces every setting, the high water and the timeout clamped; with nothing queued nothing else
changes. An empty lane set, or a floor that names nothing, is refused and nothing changes. -/
def Obligations.SetStoreReplacesSettings : Prop :=
  ∀ (t : Nat) (s : State) (body : Bytes), s.dispatches 0x50 body = true →
    (∀ v, parseStore body = some v → s.store.indexQ = [] → s.store.essenceQ = [] → s.store.browseQ = [] →
      exec (.setStore t) s =
        .next ({ s.start t with store := { s.store with settings := { v with
            highWater := clamp 16 64 v.highWater, timeout := clamp 1 10000 v.timeout } } }.withReply
          (Reply.done 0x50 (!decide (16 ≤ v.highWater ∧ v.highWater ≤ 64 ∧ 1 ≤ v.timeout ∧ v.timeout ≤ 10000))
            []))) ∧
    (parseStore body = none →
      exec (.setStore t) s = .next ((s.start t).withReply (Reply.refused 0x50 .badArgument))) ∧
    (fieldNat body 0 1 = 0 ∨ fieldNat body 1 1 = 0 ∨ fieldNat body 2 1 = 0 ∨ 2 < fieldNat body 3 1 →
      parseStore body = none)

/-- R144, R90: RESET STORE ends every request that is in flight or quarantined, advances the epoch, counts, and answers
the number ended and the new epoch; a RECORDING or DRAINING take with an essence or index write in flight is FAULTED
with STORE_RESET, and the takes with nothing bound stay as they were (every queue empty; the body's sizes are log
entry 17). -/
def Obligations.ResetStoreEndsRequests : Prop :=
  ∀ (t : Nat) (s : State), s.dispatches 0x52 [] = true → s.store.indexQ = [] → s.store.essenceQ = [] →
    s.store.browseQ = [] →
    ∃ t', exec (.resetStore t) s = .next t' ∧ (∀ (l : LaneNo) (g : TagNo), t'.store.tag l g = .free) ∧
      t'.store.epoch = s.store.epoch + 1 ∧ t'.store.resets = s.store.resets + 1 ∧
      t'.store.resetRequests = s.store.resetRequests + BitVec.ofNat 32 s.store.bound.length ∧
      t'.store.settings = s.store.settings ∧ t'.storeStalled = false ∧
      t'.link.reply = Reply.done 0x52 false (be1 s.store.bound.length ++ be1 (s.store.epoch + 1).toNat) ∧
      (∀ f : FeedNo, (∃ i ∈ s.store.flying, i.request.take = f ∧ i.request.cls ≠ .browse) →
        ((s.take f).state = .recording ∨ (s.take f).state = .draining) →
        (t'.take f).state = .faulted ∧ (t'.take f).endCause = some .storeReset) ∧
      ∀ f : FeedNo, s.store.anyBound f = false → (s.take f).state ≠ .draining → (s.take f).state ≠ .aborting →
        t'.feed f = s.feed f

/-! ## The health monitor -/

/-- R11, R151, R152, R154, R155: an interval end. Every interval count returns to 0. A feed whose take is not
RECORDING has its run counts, dynamic flags and last measures cleared and keeps its latched flags. A condition of a
RECORDING feed, present or absent by its measure, has its run count, dynamic flag and latched flag follow. R149, R11: the
measure of each condition; R153: the test by which it is present. An interval end served late is recorded at its nominal
time (log entry 27). -/
def Obligations.IntervalEndJudgesConditions : Prop :=
  (∀ (t : Nat) (s : State), s.monitor.nextEnd ≤ max s.time t →
    ∃ t', exec (.intervalEnd t) s = .next t' ∧
      t'.monitor = { s.monitor with
        latest := some s.monitor.nextEnd
        nextEnd := (s.monitor.nextEnd / (s.monitor.interval * 1000) + 1) * (s.monitor.interval * 1000) } ∧
      ∀ f : FeedNo,
        (∀ p : Fin 4, (t'.feed f).intake.paths[p] =
          { (s.feed f).intake.paths[p] with intReceived := 0, intExpected := 0 }) ∧
        (t'.window f).interval = { late := 0, overrun := 0, discontinuity := 0, cellShort := 0 } ∧
        (t'.feed f).interval = { patched := 0, lost := 0, format := 0, backlog := 0, browseSkip := 0 } ∧
        t'.take f = s.take f ∧
        ((s.take f).state ≠ .recording → (t'.health f).evaluated = false ∧
          t'.link.pending.feeds[f] = s.link.pending.feeds[f] ∧
          ∀ i : Fin 17, (t'.health f).conds[i] =
            { (s.health f).conds[i] with run := 0, dynamic := false, last := 0 }) ∧
        ((s.take f).state = .recording → (t'.health f).evaluated = true ∧
          ∀ i : Fin 17, let c := (s.health f).conds[i]
            let m := (s.feed f).measure i.val
            let c' := (t'.health f).conds[i]
            c'.last = m ∧ c'.select = c.select ∧ c'.actions = c.actions ∧
            ((s.feed f).present i.val m = true → c'.run = min (c.run + 1) s.monitor.filter ∧
              c'.dynamic = (decide (min (c.run + 1) s.monitor.filter = s.monitor.filter) || c.dynamic)) ∧
            ((s.feed f).present i.val m = false → c'.run = 0 ∧ c'.dynamic = false) ∧
            c'.latched = (c.latched || c'.dynamic) ∧
            ((t'.link.pending.feeds[f]).getLsbD i.val = ((s.link.pending.feeds[f]).getLsbD i.val ||
              (c.actions.notice && !c.selected && c'.selected))))) ∧
  ∀ (x : Feed) (m : Word),
    (∀ p : Fin 4, let a := x.intake.paths[p]
      let lost := (a.intExpected.toNat - a.intReceived.toNat) * 1000 / a.intExpected.toNat
      (x.measure p.val).toNat = (if a.intExpected.toNat = 0 then 0 else lost) ∧
      x.measure (4 + p.val) = a.intReceived ∧
      (x.present p.val m = true ↔ x.entry.paths.getLsbD p.val = true ∧ x.health.loss < m.toNat) ∧
      (x.present (4 + p.val) m = true ↔ x.entry.paths.getLsbD p.val = true ∧ m = 0)) ∧
    x.measure 8 = x.window.interval.late ∧ x.measure 9 = x.interval.patched ∧ x.measure 10 = x.interval.lost ∧
    x.measure 11 = x.window.interval.overrun ∧ x.measure 12 = x.window.interval.discontinuity ∧
    x.measure 13 = x.interval.format ∧ x.measure 14 = x.interval.browseSkip ∧ x.measure 15 = x.interval.backlog ∧
    x.measure 16 = x.window.interval.cellShort ∧
    (x.present 8 m = true ↔ x.health.late ≤ m.toNat) ∧ (x.present 9 m = true ↔ x.health.patch ≤ m.toNat) ∧
    ∀ n, 10 ≤ n → n ≤ 16 → (x.present n m = true ↔ 1 ≤ m.toNat)

/-- R150, R151, R175: SET MONITOR replaces every setting, each clamped, and nothing else; CLAMPED says whether one was
clamped. A changed interval ends at the first multiple of the new one greater than station time. An autoclear value that
is neither off nor on is refused, and nothing changes (R191). -/
def Obligations.SetMonitorReplacesSettings : Prop :=
  ∀ (t : Nat) (s : State) (body : Bytes), s.dispatches 0x30 body = true →
    (∀ a : MonitorArgs, parseMonitor body = some a →
      ∃ n, exec (.setMonitor t) s =
          .next ({ s.start t with
            monitor := { interval := clamp 10 1000 a.interval, filter := clamp 1 8 a.filter, latest := s.monitor.latest
                         nextEnd := n }
            feeds := Vector.ofFn fun (i : Fin 8) => { s.feeds[i] with health := { (s.feeds[i]).health with
              loss := clamp 1 1000 a.feeds[i].loss, late := clamp 1 65535 a.feeds[i].late
              patch := clamp 1 255 a.feeds[i].patch, autoclear := a.feeds[i].autoclear } } }.withReply
            (Reply.done 0x30 (!decide (10 ≤ a.interval ∧ a.interval ≤ 1000 ∧ 1 ≤ a.filter ∧ a.filter ≤ 8 ∧
              ∀ i : Fin 8, 1 ≤ a.feeds[i].loss ∧ a.feeds[i].loss ≤ 1000 ∧ 1 ≤ a.feeds[i].late ∧
                a.feeds[i].late ≤ 65535 ∧ 1 ≤ a.feeds[i].patch ∧ a.feeds[i].patch ≤ 255)) [])) ∧
        (clamp 10 1000 a.interval = s.monitor.interval → n = s.monitor.nextEnd) ∧
        (clamp 10 1000 a.interval ≠ s.monitor.interval →
          max s.time t < n ∧ n ≤ max s.time t + clamp 10 1000 a.interval * 1000 ∧
          n % (clamp 10 1000 a.interval * 1000) = 0)) ∧
    ((∃ i : Fin 8, 1 < fieldNat body (3 + 6 * i.val + 5) 1) →
      parseMonitor body = none ∧
      exec (.setMonitor t) s = .next ((s.start t).withReply (Reply.refused 0x30 .badArgument)))

/-- R157: SET ACTIONS replaces a feed's selects and action sets whole and touches no flag, count or notice; DROP in a
condition numbered 8..16 refuses it, and so does a condition byte with bit 6 or 7 set, which names nothing (R191). -/
def Obligations.SetActionsReplacesActions : Prop :=
  (∀ (t : Nat) (s : State) (body : Bytes) (f : FeedNo) (v : Vector (Select × Actions) 17),
    s.dispatches 0x31 body = true → fieldNat body 0 1 = f.val → parseConditions (body.drop 1) = some v →
    ((∀ i : Fin 17, 8 ≤ i.val → v[i].2.drop = false) →
      exec (.setActions t) s =
        .next (((s.start t).setHealth f { s.health f with
          conds := Vector.ofFn fun (i : Fin 17) => { (s.health f).conds[i] with
            select := v[i].1, actions := v[i].2 } }).withReply (Reply.done 0x31 false []))) ∧
    ((∃ i : Fin 17, 8 ≤ i.val ∧ v[i].2.drop = true) →
      exec (.setActions t) s = .next ((s.start t).withReply (Reply.refused 0x31 .badArgument)))) ∧
  ∀ (t : Nat) (s : State) (body : Bytes), s.dispatches 0x31 body = true →
    (∃ i : Fin 17, 64 ≤ fieldNat body (1 + i.val) 1) →
    parseConditions (body.drop 1) = none ∧
    exec (.setActions t) s = .next ((s.start t).withReply (Reply.refused 0x31 .badArgument))

/-- R163: CLEAR CONDITIONS clears the named latched flags, answers those that stay, and touches nothing else; a set that
names condition 17 or more, or a feed number of 8 or more, is refused. -/
def Obligations.ClearConditionsClearsLatched : Prop :=
  (∀ (t : Nat) (s : State) (body : Bytes) (f : FeedNo), s.dispatches 0x33 body = true → fieldNat body 0 1 = f.val →
    (∀ named, parseConditionSet (field body 1 4) = some named →
      ∃ (h : Health) (left : BitVec 17), exec (.clearConditions t) s =
          .next (((s.start t).setHealth f h).withReply (Reply.done 0x33 false (be4 left.toNat))) ∧
        h = { s.health f with conds := h.conds } ∧
        ∀ i : Fin 17, h.conds[i] = { (s.health f).conds[i] with
            latched := (s.health f).conds[i].latched && !named.getLsbD i.val } ∧
          left.getLsbD i.val = h.conds[i].latched) ∧
    (2 ^ 17 ≤ fieldNat body 1 4 →
      exec (.clearConditions t) s = .next ((s.start t).withReply (Reply.refused 0x33 .badArgument)))) ∧
  ∀ (t : Nat) (s : State) (body : Bytes), s.dispatches 0x33 body = true → 8 ≤ fieldNat body 0 1 →
    exec (.clearConditions t) s = .next ((s.start t).withReply (Reply.refused 0x33 .badArgument))

/-- R4, R131, R150, R157, R175: every setting in force stays in its range, enabled entries keep a path and distinct
stream tags, and no lane set is empty: every step keeps it. -/
def Obligations.SettingsStaySound : Prop :=
  ∀ s t : State, s.settingsSound → step s = .next t → t.settingsSound

/-! ## Reset is sound -/

/-- Right after reset every invariant stated above holds. -/
def Obligations.ResetStateIsSound : Prop :=
  State.reset.memoriesCanonical ∧ State.reset.cells.sound ∧ State.reset.windowsSound ∧ State.reset.queuesFit ∧
  State.reset.oneQueuedPerPage ∧ State.reset.oneWritePerPage ∧ State.reset.settingsSound ∧
  State.reset.areasApart ∧ State.reset.takesSound ∧ State.reset.holdingsSound
end

