-- ==== Sys2Proof/Laws/State.lean ====
section
/-! SUPPORT. What the updates of a state leave: one lemma per update and field, so that no proof unfolds a record
update. -/

namespace Sys2Proof.Machine

/-! ## One feed's records -/

theorem State.feed_setFeed (s : State) (f g : FeedNo) (x : Feed) :
    (s.setFeed f x).feed g = if f = g then x else s.feed g := by
  simp only [State.feed, State.setFeed, Fin.getElem_fin, Vector.getElem_set, Fin.ext_iff]

@[simp] theorem State.feed_setFeed_self (s : State) (f : FeedNo) (x : Feed) : (s.setFeed f x).feed f = x := by
  simp [State.feed_setFeed]

@[simp] theorem State.setFeed_setFeed (s : State) (f : FeedNo) (x y : Feed) :
    (s.setFeed f x).setFeed f y = s.setFeed f y := by
  simp [State.setFeed]

theorem State.feed_setFeed_ne (s : State) {f g : FeedNo} (x : Feed) (h : f ≠ g) :
    (s.setFeed f x).feed g = s.feed g := by
  simp [State.feed_setFeed, h]

@[simp] theorem State.setFeed_time (s : State) (f : FeedNo) (x : Feed) : (s.setFeed f x).time = s.time := rfl

@[simp] theorem State.setFeed_line (s : State) (f : FeedNo) (x : Feed) : (s.setFeed f x).line = s.line := rfl

@[simp] theorem State.setFeed_intake (s : State) (f : FeedNo) (x : Feed) : (s.setFeed f x).intake = s.intake := rfl

@[simp] theorem State.setFeed_cells (s : State) (f : FeedNo) (x : Feed) : (s.setFeed f x).cells = s.cells := rfl

@[simp] theorem State.setFeed_pool (s : State) (f : FeedNo) (x : Feed) : (s.setFeed f x).pool = s.pool := rfl

@[simp] theorem State.setFeed_store (s : State) (f : FeedNo) (x : Feed) : (s.setFeed f x).store = s.store := rfl

@[simp] theorem State.setFeed_monitor (s : State) (f : FeedNo) (x : Feed) : (s.setFeed f x).monitor = s.monitor := rfl

@[simp] theorem State.setFeed_link (s : State) (f : FeedNo) (x : Feed) : (s.setFeed f x).link = s.link := rfl

@[simp] theorem State.setFeed_settings (s : State) (f : FeedNo) (x : Feed) : (s.setFeed f x).settings = s.settings := rfl

@[simp] theorem State.setFeed_free (s : State) (f : FeedNo) (x : Feed) : (s.setFeed f x).free = s.free := rfl

@[simp] theorem State.setFeed_out (s : State) (f : FeedNo) (x : Feed) : (s.setFeed f x).out = s.out := rfl

@[simp] theorem State.setFeed_pending (s : State) (f : FeedNo) (x : Feed) : (s.setFeed f x).pending = s.pending := rfl

@[simp] theorem State.setTake_time (s : State) (f : FeedNo) (x : Take) : (s.setTake f x).time = s.time := rfl

@[simp] theorem State.setTake_line (s : State) (f : FeedNo) (x : Take) : (s.setTake f x).line = s.line := rfl

@[simp] theorem State.setTake_intake (s : State) (f : FeedNo) (x : Take) : (s.setTake f x).intake = s.intake := rfl

@[simp] theorem State.setTake_cells (s : State) (f : FeedNo) (x : Take) : (s.setTake f x).cells = s.cells := rfl

@[simp] theorem State.setTake_pool (s : State) (f : FeedNo) (x : Take) : (s.setTake f x).pool = s.pool := rfl

@[simp] theorem State.setTake_store (s : State) (f : FeedNo) (x : Take) : (s.setTake f x).store = s.store := rfl

@[simp] theorem State.setTake_monitor (s : State) (f : FeedNo) (x : Take) : (s.setTake f x).monitor = s.monitor := rfl

@[simp] theorem State.setTake_link (s : State) (f : FeedNo) (x : Take) : (s.setTake f x).link = s.link := rfl

@[simp] theorem State.setTake_settings (s : State) (f : FeedNo) (x : Take) : (s.setTake f x).settings = s.settings := rfl

@[simp] theorem State.setTake_free (s : State) (f : FeedNo) (x : Take) : (s.setTake f x).free = s.free := rfl

@[simp] theorem State.setTake_out (s : State) (f : FeedNo) (x : Take) : (s.setTake f x).out = s.out := rfl

@[simp] theorem State.setTake_pending (s : State) (f : FeedNo) (x : Take) : (s.setTake f x).pending = s.pending := rfl

@[simp] theorem State.setWindow_time (s : State) (f : FeedNo) (x : Window) : (s.setWindow f x).time = s.time := rfl

@[simp] theorem State.setWindow_line (s : State) (f : FeedNo) (x : Window) : (s.setWindow f x).line = s.line := rfl

@[simp] theorem State.setWindow_intake (s : State) (f : FeedNo) (x : Window) : (s.setWindow f x).intake = s.intake := rfl

@[simp] theorem State.setWindow_cells (s : State) (f : FeedNo) (x : Window) : (s.setWindow f x).cells = s.cells := rfl

@[simp] theorem State.setWindow_pool (s : State) (f : FeedNo) (x : Window) : (s.setWindow f x).pool = s.pool := rfl

@[simp] theorem State.setWindow_store (s : State) (f : FeedNo) (x : Window) : (s.setWindow f x).store = s.store := rfl

@[simp] theorem State.setWindow_monitor (s : State) (f : FeedNo) (x : Window) : (s.setWindow f x).monitor = s.monitor := rfl

@[simp] theorem State.setWindow_link (s : State) (f : FeedNo) (x : Window) : (s.setWindow f x).link = s.link := rfl

@[simp] theorem State.setWindow_settings (s : State) (f : FeedNo) (x : Window) : (s.setWindow f x).settings = s.settings := rfl

@[simp] theorem State.setWindow_free (s : State) (f : FeedNo) (x : Window) : (s.setWindow f x).free = s.free := rfl

@[simp] theorem State.setWindow_out (s : State) (f : FeedNo) (x : Window) : (s.setWindow f x).out = s.out := rfl

@[simp] theorem State.setWindow_pending (s : State) (f : FeedNo) (x : Window) : (s.setWindow f x).pending = s.pending := rfl

@[simp] theorem State.setHealth_time (s : State) (f : FeedNo) (x : Health) : (s.setHealth f x).time = s.time := rfl

@[simp] theorem State.setHealth_line (s : State) (f : FeedNo) (x : Health) : (s.setHealth f x).line = s.line := rfl

@[simp] theorem State.setHealth_intake (s : State) (f : FeedNo) (x : Health) : (s.setHealth f x).intake = s.intake := rfl

@[simp] theorem State.setHealth_cells (s : State) (f : FeedNo) (x : Health) : (s.setHealth f x).cells = s.cells := rfl

@[simp] theorem State.setHealth_pool (s : State) (f : FeedNo) (x : Health) : (s.setHealth f x).pool = s.pool := rfl

@[simp] theorem State.setHealth_store (s : State) (f : FeedNo) (x : Health) : (s.setHealth f x).store = s.store := rfl

@[simp] theorem State.setHealth_monitor (s : State) (f : FeedNo) (x : Health) : (s.setHealth f x).monitor = s.monitor := rfl

@[simp] theorem State.setHealth_link (s : State) (f : FeedNo) (x : Health) : (s.setHealth f x).link = s.link := rfl

@[simp] theorem State.setHealth_settings (s : State) (f : FeedNo) (x : Health) : (s.setHealth f x).settings = s.settings := rfl

@[simp] theorem State.setHealth_free (s : State) (f : FeedNo) (x : Health) : (s.setHealth f x).free = s.free := rfl

@[simp] theorem State.setHealth_out (s : State) (f : FeedNo) (x : Health) : (s.setHealth f x).out = s.out := rfl

@[simp] theorem State.setHealth_pending (s : State) (f : FeedNo) (x : Health) : (s.setHealth f x).pending = s.pending := rfl

@[simp] theorem State.take_setTake (s : State) (f : FeedNo) (x : Take) : (s.setTake f x).take f = x := by
  simp [State.take, State.setTake]

theorem State.feed_setTake_ne (s : State) {f g : FeedNo} (x : Take) (h : f ≠ g) :
    (s.setTake f x).feed g = s.feed g := by
  simp [State.setTake, State.feed_setFeed, h]

@[simp] theorem State.feed_setTake (s : State) (f : FeedNo) (x : Take) :
    (s.setTake f x).feed f = { s.feed f with take := x } := by
  simp [State.setTake]

@[simp] theorem State.window_setTake (s : State) (f g : FeedNo) (x : Take) : (s.setTake f x).window g = s.window g := by
  by_cases h : f = g
  · subst h; simp [State.window]
  · simp [State.window, State.feed_setTake_ne _ _ h]

@[simp] theorem State.health_setTake (s : State) (f g : FeedNo) (x : Take) : (s.setTake f x).health g = s.health g := by
  by_cases h : f = g
  · subst h; simp [State.health]
  · simp [State.health, State.feed_setTake_ne _ _ h]

@[simp] theorem State.window_setWindow (s : State) (f : FeedNo) (x : Window) : (s.setWindow f x).window f = x := by
  simp [State.window, State.setWindow]

theorem State.feed_setWindow_ne (s : State) {f g : FeedNo} (x : Window) (h : f ≠ g) :
    (s.setWindow f x).feed g = s.feed g := by
  simp [State.setWindow, State.feed_setFeed, h]

@[simp] theorem State.feed_setWindow (s : State) (f : FeedNo) (x : Window) :
    (s.setWindow f x).feed f = { s.feed f with window := x } := by
  simp [State.setWindow]

@[simp] theorem State.take_setWindow (s : State) (f g : FeedNo) (x : Window) : (s.setWindow f x).take g = s.take g := by
  by_cases h : f = g
  · subst h; simp [State.take]
  · simp [State.take, State.feed_setWindow_ne _ _ h]

@[simp] theorem State.health_setWindow (s : State) (f g : FeedNo) (x : Window) : (s.setWindow f x).health g = s.health g := by
  by_cases h : f = g
  · subst h; simp [State.health]
  · simp [State.health, State.feed_setWindow_ne _ _ h]

@[simp] theorem State.health_setHealth (s : State) (f : FeedNo) (x : Health) : (s.setHealth f x).health f = x := by
  simp [State.health, State.setHealth]

theorem State.feed_setHealth_ne (s : State) {f g : FeedNo} (x : Health) (h : f ≠ g) :
    (s.setHealth f x).feed g = s.feed g := by
  simp [State.setHealth, State.feed_setFeed, h]

@[simp] theorem State.feed_setHealth (s : State) (f : FeedNo) (x : Health) :
    (s.setHealth f x).feed f = { s.feed f with health := x } := by
  simp [State.setHealth]

@[simp] theorem State.take_setHealth (s : State) (f g : FeedNo) (x : Health) : (s.setHealth f x).take g = s.take g := by
  by_cases h : f = g
  · subst h; simp [State.take]
  · simp [State.take, State.feed_setHealth_ne _ _ h]

@[simp] theorem State.window_setHealth (s : State) (f g : FeedNo) (x : Health) : (s.setHealth f x).window g = s.window g := by
  by_cases h : f = g
  · subst h; simp [State.window]
  · simp [State.window, State.feed_setHealth_ne _ _ h]

/-! ## The clock, the cells, the notices -/

@[simp] theorem State.start_line (s : State) (t : Nat) : (s.start t).line = s.line := rfl

@[simp] theorem State.start_intake (s : State) (t : Nat) : (s.start t).intake = s.intake := rfl

@[simp] theorem State.start_feeds (s : State) (t : Nat) : (s.start t).feeds = s.feeds := rfl

@[simp] theorem State.start_cells (s : State) (t : Nat) : (s.start t).cells = s.cells := rfl

@[simp] theorem State.start_pool (s : State) (t : Nat) : (s.start t).pool = s.pool := rfl

@[simp] theorem State.start_store (s : State) (t : Nat) : (s.start t).store = s.store := rfl

@[simp] theorem State.start_monitor (s : State) (t : Nat) : (s.start t).monitor = s.monitor := rfl

@[simp] theorem State.start_link (s : State) (t : Nat) : (s.start t).link = s.link := rfl

@[simp] theorem State.start_settings (s : State) (t : Nat) : (s.start t).settings = s.settings := rfl

@[simp] theorem State.start_free (s : State) (t : Nat) : (s.start t).free = s.free := rfl

@[simp] theorem State.start_pending (s : State) (t : Nat) : (s.start t).pending = s.pending := rfl

@[simp] theorem State.start_time (s : State) (t : Nat) : (s.start t).time = max s.time t := rfl

@[simp] theorem State.start_out (s : State) (t : Nat) : (s.start t).out = { writes := [], miso := [] } := rfl

@[simp] theorem State.start_feed (s : State) (t : Nat) (f : FeedNo) : (s.start t).feed f = s.feed f := rfl

@[simp] theorem State.start_take (s : State) (t : Nat) (f : FeedNo) : (s.start t).take f = s.take f := rfl

@[simp] theorem State.start_window (s : State) (t : Nat) (f : FeedNo) : (s.start t).window f = s.window f := rfl

@[simp] theorem State.start_health (s : State) (t : Nat) (f : FeedNo) : (s.start t).health f = s.health f := rfl

@[simp] theorem State.dropCells_time (s : State) (cs : List Nat) : (s.dropCells cs).time = s.time := rfl

@[simp] theorem State.dropCells_line (s : State) (cs : List Nat) : (s.dropCells cs).line = s.line := rfl

@[simp] theorem State.dropCells_intake (s : State) (cs : List Nat) : (s.dropCells cs).intake = s.intake := rfl

@[simp] theorem State.dropCells_feeds (s : State) (cs : List Nat) : (s.dropCells cs).feeds = s.feeds := rfl

@[simp] theorem State.dropCells_pool (s : State) (cs : List Nat) : (s.dropCells cs).pool = s.pool := rfl

@[simp] theorem State.dropCells_store (s : State) (cs : List Nat) : (s.dropCells cs).store = s.store := rfl

@[simp] theorem State.dropCells_monitor (s : State) (cs : List Nat) : (s.dropCells cs).monitor = s.monitor := rfl

@[simp] theorem State.dropCells_link (s : State) (cs : List Nat) : (s.dropCells cs).link = s.link := rfl

@[simp] theorem State.dropCells_settings (s : State) (cs : List Nat) : (s.dropCells cs).settings = s.settings := rfl

@[simp] theorem State.dropCells_free (s : State) (cs : List Nat) : (s.dropCells cs).free = s.free := rfl

@[simp] theorem State.dropCells_out (s : State) (cs : List Nat) : (s.dropCells cs).out = s.out := rfl

@[simp] theorem State.dropCells_pending (s : State) (cs : List Nat) : (s.dropCells cs).pending = s.pending := rfl

@[simp] theorem State.dropCells_feed (s : State) (cs : List Nat) (f : FeedNo) : (s.dropCells cs).feed f = s.feed f := rfl

@[simp] theorem State.dropCells_take (s : State) (cs : List Nat) (f : FeedNo) : (s.dropCells cs).take f = s.take f := rfl

@[simp] theorem State.dropCells_window (s : State) (cs : List Nat) (f : FeedNo) : (s.dropCells cs).window f = s.window f := rfl

@[simp] theorem State.dropCells_health (s : State) (cs : List Nat) (f : FeedNo) : (s.dropCells cs).health f = s.health f := rfl

@[simp] theorem State.raiseFeed_time (s : State) (f : FeedNo) (n : Nat) : (s.raiseFeed f n).time = s.time := rfl

@[simp] theorem State.raiseFeed_line (s : State) (f : FeedNo) (n : Nat) : (s.raiseFeed f n).line = s.line := rfl

@[simp] theorem State.raiseFeed_intake (s : State) (f : FeedNo) (n : Nat) : (s.raiseFeed f n).intake = s.intake := rfl

@[simp] theorem State.raiseFeed_feeds (s : State) (f : FeedNo) (n : Nat) : (s.raiseFeed f n).feeds = s.feeds := rfl

@[simp] theorem State.raiseFeed_cells (s : State) (f : FeedNo) (n : Nat) : (s.raiseFeed f n).cells = s.cells := rfl

@[simp] theorem State.raiseFeed_pool (s : State) (f : FeedNo) (n : Nat) : (s.raiseFeed f n).pool = s.pool := rfl

@[simp] theorem State.raiseFeed_store (s : State) (f : FeedNo) (n : Nat) : (s.raiseFeed f n).store = s.store := rfl

@[simp] theorem State.raiseFeed_monitor (s : State) (f : FeedNo) (n : Nat) : (s.raiseFeed f n).monitor = s.monitor := rfl

@[simp] theorem State.raiseFeed_settings (s : State) (f : FeedNo) (n : Nat) : (s.raiseFeed f n).settings = s.settings := rfl

@[simp] theorem State.raiseFeed_free (s : State) (f : FeedNo) (n : Nat) : (s.raiseFeed f n).free = s.free := rfl

@[simp] theorem State.raiseFeed_out (s : State) (f : FeedNo) (n : Nat) : (s.raiseFeed f n).out = s.out := rfl

@[simp] theorem State.raiseFeed_pending (s : State) (f : FeedNo) (n : Nat) : (s.raiseFeed f n).pending = s.pending := rfl

@[simp] theorem State.raiseFeed_feed (s : State) (f g : FeedNo) (n : Nat) : (s.raiseFeed f n).feed g = s.feed g := rfl

@[simp] theorem State.raiseFeed_take (s : State) (f g : FeedNo) (n : Nat) : (s.raiseFeed f n).take g = s.take g := rfl

@[simp] theorem State.raiseFeed_window (s : State) (f g : FeedNo) (n : Nat) : (s.raiseFeed f n).window g = s.window g := rfl

@[simp] theorem State.raiseFeed_health (s : State) (f g : FeedNo) (n : Nat) : (s.raiseFeed f n).health g = s.health g := rfl

@[simp] theorem State.raiseDevice_time (s : State) (n : Nat) : (s.raiseDevice n).time = s.time := rfl

@[simp] theorem State.raiseDevice_line (s : State) (n : Nat) : (s.raiseDevice n).line = s.line := rfl

@[simp] theorem State.raiseDevice_intake (s : State) (n : Nat) : (s.raiseDevice n).intake = s.intake := rfl

@[simp] theorem State.raiseDevice_feeds (s : State) (n : Nat) : (s.raiseDevice n).feeds = s.feeds := rfl

@[simp] theorem State.raiseDevice_cells (s : State) (n : Nat) : (s.raiseDevice n).cells = s.cells := rfl

@[simp] theorem State.raiseDevice_pool (s : State) (n : Nat) : (s.raiseDevice n).pool = s.pool := rfl

@[simp] theorem State.raiseDevice_store (s : State) (n : Nat) : (s.raiseDevice n).store = s.store := rfl

@[simp] theorem State.raiseDevice_monitor (s : State) (n : Nat) : (s.raiseDevice n).monitor = s.monitor := rfl

@[simp] theorem State.raiseDevice_settings (s : State) (n : Nat) : (s.raiseDevice n).settings = s.settings := rfl

@[simp] theorem State.raiseDevice_free (s : State) (n : Nat) : (s.raiseDevice n).free = s.free := rfl

@[simp] theorem State.raiseDevice_out (s : State) (n : Nat) : (s.raiseDevice n).out = s.out := rfl

@[simp] theorem State.raiseDevice_pending (s : State) (n : Nat) : (s.raiseDevice n).pending = s.pending := rfl

@[simp] theorem State.raiseDevice_feed (s : State) (n : Nat) (g : FeedNo) : (s.raiseDevice n).feed g = s.feed g := rfl

@[simp] theorem State.raiseDevice_take (s : State) (n : Nat) (g : FeedNo) : (s.raiseDevice n).take g = s.take g := rfl

@[simp] theorem State.raiseDevice_window (s : State) (n : Nat) (g : FeedNo) : (s.raiseDevice n).window g = s.window g := rfl

@[simp] theorem State.raiseDevice_health (s : State) (n : Nat) (g : FeedNo) : (s.raiseDevice n).health g = s.health g := rfl

@[simp] theorem State.freeContexts_time (s : State) (f : FeedNo) : (s.freeContexts f).time = s.time := rfl

@[simp] theorem State.freeContexts_line (s : State) (f : FeedNo) : (s.freeContexts f).line = s.line := rfl

@[simp] theorem State.freeContexts_intake (s : State) (f : FeedNo) : (s.freeContexts f).intake = s.intake := rfl

@[simp] theorem State.freeContexts_feeds (s : State) (f : FeedNo) : (s.freeContexts f).feeds = s.feeds := rfl

@[simp] theorem State.freeContexts_cells (s : State) (f : FeedNo) : (s.freeContexts f).cells = s.cells := rfl

@[simp] theorem State.freeContexts_store (s : State) (f : FeedNo) : (s.freeContexts f).store = s.store := rfl

@[simp] theorem State.freeContexts_monitor (s : State) (f : FeedNo) : (s.freeContexts f).monitor = s.monitor := rfl

@[simp] theorem State.freeContexts_link (s : State) (f : FeedNo) : (s.freeContexts f).link = s.link := rfl

@[simp] theorem State.freeContexts_settings (s : State) (f : FeedNo) : (s.freeContexts f).settings = s.settings := rfl

@[simp] theorem State.freeContexts_free (s : State) (f : FeedNo) : (s.freeContexts f).free = s.free := rfl

@[simp] theorem State.freeContexts_out (s : State) (f : FeedNo) : (s.freeContexts f).out = s.out := rfl

@[simp] theorem State.freeContexts_pending (s : State) (f : FeedNo) : (s.freeContexts f).pending = s.pending := rfl

@[simp] theorem State.freeContexts_feed (s : State) (f g : FeedNo) : (s.freeContexts f).feed g = s.feed g := rfl

@[simp] theorem State.freeContexts_take (s : State) (f g : FeedNo) : (s.freeContexts f).take g = s.take g := rfl

@[simp] theorem State.freeContexts_window (s : State) (f g : FeedNo) : (s.freeContexts f).window g = s.window g := rfl

@[simp] theorem State.freeContexts_health (s : State) (f g : FeedNo) : (s.freeContexts f).health g = s.health g := rfl

/-! ## Parts of the store port and of a window -/

@[simp] theorem StorePort.queue_setQueue (p : StorePort) (c : StoreClass) (q : List Request) :
    (p.setQueue c q).queue c = q := by
  cases c <;> rfl

theorem StorePort.queue_setQueue_ne (p : StorePort) {c d : StoreClass} (q : List Request) (h : c ≠ d) :
    (p.setQueue c q).queue d = p.queue d := by
  cases c <;> cases d <;> first | rfl | exact absurd rfl h

@[simp] theorem StorePort.setQueue_lanes (p : StorePort) (c : StoreClass) (q : List Request) :
    (p.setQueue c q).lanes = p.lanes := by
  cases c <;> rfl

@[simp] theorem StorePort.setQueue_epoch (p : StorePort) (c : StoreClass) (q : List Request) :
    (p.setQueue c q).epoch = p.epoch := by
  cases c <;> rfl

@[simp] theorem StorePort.setQueue_settings (p : StorePort) (c : StoreClass) (q : List Request) :
    (p.setQueue c q).settings = p.settings := by
  cases c <;> rfl

@[simp] theorem StorePort.setQueue_settling (p : StorePort) (c : StoreClass) (q : List Request) :
    (p.setQueue c q).settling = p.settling := by
  cases c <;> rfl

@[simp] theorem StorePort.setQueue_stray (p : StorePort) (c : StoreClass) (q : List Request) :
    (p.setQueue c q).stray = p.stray := by
  cases c <;> rfl

@[simp] theorem StorePort.setQueue_withdrawnIndex (p : StorePort) (c : StoreClass) (q : List Request) :
    (p.setQueue c q).withdrawnIndex = p.withdrawnIndex := by
  cases c <;> rfl

@[simp] theorem StorePort.setQueue_withdrawnEssence (p : StorePort) (c : StoreClass) (q : List Request) :
    (p.setQueue c q).withdrawnEssence = p.withdrawnEssence := by
  cases c <;> rfl

@[simp] theorem StorePort.setQueue_withdrawnBrowse (p : StorePort) (c : StoreClass) (q : List Request) :
    (p.setQueue c q).withdrawnBrowse = p.withdrawnBrowse := by
  cases c <;> rfl

@[simp] theorem StorePort.setQueue_resets (p : StorePort) (c : StoreClass) (q : List Request) :
    (p.setQueue c q).resets = p.resets := by
  cases c <;> rfl

@[simp] theorem StorePort.setQueue_resetRequests (p : StorePort) (c : StoreClass) (q : List Request) :
    (p.setQueue c q).resetRequests = p.resetRequests := by
  cases c <;> rfl

end Sys2Proof.Machine
end

