-- ==== Sys2Proof/Laws/Memory.lean ====
section
/-! SUPPORT. The sparse tables and the byte memories: every operation keeps the canonical form, and a read after a
write gives what was written there and what was there elsewhere. -/

namespace Sys2Proof.Machine

/-! ## Sparse tables -/

/-- Every key of a table lies above `a`. -/
def keysAbove (a : Nat) (m : List (Nat × α)) : Prop := ∀ x ∈ m, a < x.1

theorem sparseGet_of_above (d : α) (m : List (Nat × α)) (a : Nat) (h : keysAbove a m) : sparseGet d m a = d := by
  induction m with
  | nil => rfl
  | cons x m ih =>
    obtain ⟨k, v⟩ := x
    have hk : a < k := h (k, v) (by simp)
    simp only [sparseGet, if_neg (show k ≠ a by omega)]
    exact ih fun y hy => h y (by simp [hy])

theorem mem_sparseSet [DecidableEq α] (d : α) (m : List (Nat × α)) (a : Nat) (v : α) {x : Nat × α}
    (hx : x ∈ sparseSet d m a v) : x ∈ m ∨ x = (a, v) := by
  induction m with
  | nil => simp only [sparseSet] at hx; split at hx <;> simp_all
  | cons y m ih =>
    obtain ⟨k, w⟩ := y
    simp only [sparseSet] at hx
    split at hx
    · rcases List.mem_cons.1 hx with rfl | hx
      · simp
      · rcases ih hx with h | h <;> simp [h]
    · split at hx <;> split at hx <;> simp_all <;> grind

theorem keysAbove_sparseSet [DecidableEq α] (d : α) (m : List (Nat × α)) (b a : Nat) (v : α)
    (h : keysAbove b m) (hb : b < a) : keysAbove b (sparseSet d m a v) := by
  intro x hx
  rcases mem_sparseSet d m a v hx with hx | rfl
  · exact h x hx
  · exact hb

theorem sparseWf_cons {d : α} {k : Nat} {w : α} {m : List (Nat × α)} :
    sparseWf d ((k, w) :: m) ↔ keysAbove k m ∧ w ≠ d ∧ sparseWf d m := by
  constructor
  · rintro ⟨hp, hd⟩
    refine ⟨fun x hx => (List.pairwise_cons.1 hp).1 x hx, hd (k, w) (by simp), (List.pairwise_cons.1 hp).2,
      fun x hx => hd x (by simp [hx])⟩
  · rintro ⟨ha, hw, hp, hd⟩
    refine ⟨List.pairwise_cons.2 ⟨ha, hp⟩, fun x hx => ?_⟩
    rcases List.mem_cons.1 hx with rfl | hx
    · exact hw
    · exact hd x hx

theorem sparseWf_nil (d : α) : sparseWf d [] := ⟨List.Pairwise.nil, by simp⟩

/-- A write keeps the canonical form. -/
theorem sparseSet_wf [DecidableEq α] (d : α) (m : List (Nat × α)) (a : Nat) (v : α) (h : sparseWf d m) :
    sparseWf d (sparseSet d m a v) := by
  induction m with
  | nil =>
    simp only [sparseSet]
    split
    · exact sparseWf_nil d
    · exact sparseWf_cons.2 ⟨by simp [keysAbove], by assumption, sparseWf_nil d⟩
  | cons x m ih =>
    obtain ⟨k, w⟩ := x
    obtain ⟨ha, hw, hm⟩ := sparseWf_cons.1 h
    simp only [sparseSet]
    split
    · exact sparseWf_cons.2 ⟨keysAbove_sparseSet d m k a v ha (by assumption), hw, ih hm⟩
    · split
      · split
        · exact hm
        · subst k; exact sparseWf_cons.2 ⟨ha, by assumption, hm⟩
      · split
        · exact h
        · refine sparseWf_cons.2 ⟨?_, by assumption, h⟩
          intro x hx
          rcases List.mem_cons.1 hx with rfl | hx
          · show a < k; omega
          · have := ha x hx; omega

/-- A read after a write: the written value at its key, and what was there elsewhere. -/
theorem sparseGet_sparseSet [DecidableEq α] (d : α) (m : List (Nat × α)) (a b : Nat) (v : α) (h : sparseWf d m) :
    sparseGet d (sparseSet d m a v) b = if a = b then v else sparseGet d m b := by
  induction m with
  | nil => simp only [sparseSet]; split <;> split <;> simp_all [sparseGet]
  | cons x m ih =>
    obtain ⟨k, w⟩ := x
    obtain ⟨ha, hw, hm⟩ := sparseWf_cons.1 h
    simp only [sparseSet]
    split
    · rename_i hk
      by_cases hkb : k = b
      · have hab : a ≠ b := by omega
        simp [sparseGet, hkb, hab]
      · simp [sparseGet, hkb, ih hm]
    · split
      · rename_i hk
        split
        · rename_i hv
          by_cases hab : a = b
          · rw [if_pos hab, hv]; exact sparseGet_of_above d m b (by rw [← hab, ← hk]; exact ha)
          · have hkb : k ≠ b := by omega
            simp [sparseGet, hab, hkb]
        · by_cases hab : a = b
          · simp [sparseGet, hab]
          · have hkb : k ≠ b := by omega
            simp [sparseGet, hab, hkb]
      · rename_i h1 h2
        split
        · rename_i hv
          by_cases hab : a = b
          · rw [if_pos hab, hv]
            refine sparseGet_of_above d _ b ?_
            intro x hx
            rcases List.mem_cons.1 hx with rfl | hx
            · show b < k; omega
            · have := ha x hx; omega
          · rw [if_neg hab]
        · by_cases hab : a = b
          · simp [sparseGet, hab]
          · simp [sparseGet, hab]

/-! ## Byte memories -/

/-- What one address of a byte memory reads as. -/
abbrev Memory.byte (d : Byte) (m : List Host.Cell) (a : Nat) : Byte := sparseGet d m a

theorem entriesOf_above (d : Byte) (bs : Bytes) (a b : Nat) (h : b < a) : keysAbove b (entriesOf d a bs) := by
  induction bs generalizing a with
  | nil => simp [entriesOf, keysAbove]
  | cons x bs ih =>
    simp only [entriesOf]
    split
    · exact ih (a + 1) (by omega)
    · intro y hy
      rcases List.mem_cons.1 hy with rfl | hy
      · exact h
      · exact ih (a + 1) (by omega) y hy

theorem entriesOf_below (d : Byte) (bs : Bytes) (a : Nat) : ∀ x ∈ entriesOf d a bs, x.1 < a + bs.length := by
  induction bs generalizing a with
  | nil => simp [entriesOf]
  | cons y bs ih =>
    intro x hx
    simp only [entriesOf] at hx
    split at hx
    · have := ih (a + 1) x hx; simp only [List.length_cons]; omega
    · rcases List.mem_cons.1 hx with rfl | hx
      · simp
      · have := ih (a + 1) x hx; simp only [List.length_cons]; omega

theorem entriesOf_wf (d : Byte) (bs : Bytes) (a : Nat) : sparseWf d (entriesOf d a bs) := by
  induction bs generalizing a with
  | nil => exact sparseWf_nil d
  | cons x bs ih =>
    simp only [entriesOf]
    split
    · exact ih (a + 1)
    · exact sparseWf_cons.2 ⟨entriesOf_above d bs (a + 1) a (by omega), by assumption, ih (a + 1)⟩

theorem sparseGet_entriesOf (d : Byte) (bs : Bytes) (a b : Nat) :
    sparseGet d (entriesOf d a bs) b = if a ≤ b then (bs[b - a]?).getD d else d := by
  induction bs generalizing a with
  | nil => simp [entriesOf, sparseGet]
  | cons x bs ih =>
    have hrec := ih (a + 1)
    simp only [entriesOf]
    by_cases hab : a = b
    · subst hab
      have habove : sparseGet d (entriesOf d (a + 1) bs) a = d :=
        sparseGet_of_above d _ a (entriesOf_above d bs (a + 1) a (by omega))
      split
      · rename_i hx; simp [habove, hx]
      · simp [sparseGet]
    · have hstep : (if a ≤ b then ((x :: bs)[b - a]?).getD d else d) =
          (if a + 1 ≤ b then (bs[b - (a + 1)]?).getD d else d) := by
        by_cases hle : a + 1 ≤ b
        · rw [if_pos (show a ≤ b by omega), if_pos hle, show b - a = (b - (a + 1)) + 1 by omega,
            List.getElem?_cons_succ]
        · rw [if_neg (show ¬ a ≤ b by omega), if_neg hle]
      split
      · rw [hrec, hstep]
      · rw [hstep, ← hrec]; simp [sparseGet, hab]

theorem sparseWf_append {d : α} {l r : List (Nat × α)} (hl : sparseWf d l) (hr : sparseWf d r)
    (h : ∀ x ∈ l, ∀ y ∈ r, x.1 < y.1) : sparseWf d (l ++ r) :=
  ⟨List.pairwise_append.2 ⟨hl.1, hr.1, h⟩, fun x hx => (List.mem_append.1 hx).elim (hl.2 x) (hr.2 x)⟩

theorem sparseWf_takeWhile {d : α} {m : List (Nat × α)} (p : Nat × α → Bool) (h : sparseWf d m) :
    sparseWf d (m.takeWhile p) :=
  ⟨h.1.sublist (List.takeWhile_sublist p), fun x hx => h.2 x ((List.takeWhile_sublist p).subset hx)⟩

theorem sparseWf_dropWhile {d : α} {m : List (Nat × α)} (p : Nat × α → Bool) (h : sparseWf d m) :
    sparseWf d (m.dropWhile p) :=
  ⟨h.1.sublist (List.dropWhile_sublist p), fun x hx => h.2 x ((List.dropWhile_sublist p).subset hx)⟩

theorem mem_takeWhile_lt {m : List (Nat × α)} {a : Nat} {x : Nat × α}
    (hx : x ∈ m.takeWhile fun c => decide (c.1 < a)) : x.1 < a := by
  induction m with
  | nil => simp at hx
  | cons y m ih =>
    rw [List.takeWhile_cons] at hx
    split at hx
    · rcases List.mem_cons.1 hx with rfl | hx
      · rename_i hlt; simpa using hlt
      · exact ih hx
    · simp at hx

theorem mem_dropWhile_le {d : α} {m : List (Nat × α)} {a : Nat} (hm : sparseWf d m) {x : Nat × α}
    (hx : x ∈ m.dropWhile fun c => decide (c.1 < a)) : a ≤ x.1 := by
  induction m with
  | nil => simp at hx
  | cons y m ih =>
    obtain ⟨k, w⟩ := y
    obtain ⟨ha, _, hm'⟩ := sparseWf_cons.1 hm
    rw [List.dropWhile_cons] at hx
    split at hx
    · exact ih hm' hx
    · rename_i hk
      have hk : a ≤ k := by simpa using hk
      rcases List.mem_cons.1 hx with rfl | hx
      · exact hk
      · have := ha x hx; omega

/-- A write keeps the canonical form. -/
theorem Memory.write_wf (d : Byte) (m : List Host.Cell) (a : Nat) (bs : Bytes) (h : Memory.wf d m) :
    Memory.wf d (Memory.write d m a bs) := by
  refine sparseWf_append (sparseWf_append (sparseWf_takeWhile _ h) (entriesOf_wf d bs a) ?_)
    (sparseWf_dropWhile _ h) ?_
  · intro x hx y hy
    have h1 := mem_takeWhile_lt hx
    rcases a with _ | a
    · omega
    · have := entriesOf_above d bs (a + 1) a (by omega) y hy; omega
  · intro x hx y hy
    have hy' := mem_dropWhile_le h hy
    rcases List.mem_append.1 hx with hx | hx
    · have := mem_takeWhile_lt hx; omega
    · have := entriesOf_below d bs a x hx; omega

theorem sparseGet_append (d : α) (l r : List (Nat × α)) (b : Nat)
    (hl : ∀ x ∈ l, x.1 ≠ b) : sparseGet d (l ++ r) b = sparseGet d r b := by
  induction l with
  | nil => rfl
  | cons x l ih =>
    obtain ⟨k, w⟩ := x
    have hk : k ≠ b := hl (k, w) (by simp)
    simp [sparseGet, hk, ih fun y hy => hl y (by simp [hy])]

theorem sparseGet_append_right (d : α) (l r : List (Nat × α)) (b : Nat)
    (hr : ∀ x ∈ r, x.1 ≠ b) : sparseGet d (l ++ r) b = sparseGet d l b := by
  induction l with
  | nil =>
    show sparseGet d r b = d
    have := sparseGet_append d r [] b hr
    simpa [sparseGet] using this
  | cons x l ih =>
    obtain ⟨k, w⟩ := x
    simp only [List.cons_append, sparseGet, ih]

theorem sparseGet_takeWhile {d : α} {m : List (Nat × α)} {a b : Nat} (h : sparseWf d m) (hb : b < a) :
    sparseGet d (m.takeWhile fun c => decide (c.1 < a)) b = sparseGet d m b := by
  conv => rhs; rw [← List.takeWhile_append_dropWhile (p := fun c => decide (c.1 < a)) (l := m)]
  rw [sparseGet_append_right]
  intro x hx
  have := mem_dropWhile_le h hx
  omega

theorem sparseGet_dropWhile {d : α} {m : List (Nat × α)} {a b : Nat} (hb : a ≤ b) :
    sparseGet d (m.dropWhile fun c => decide (c.1 < a)) b = sparseGet d m b := by
  conv => rhs; rw [← List.takeWhile_append_dropWhile (p := fun c => decide (c.1 < a)) (l := m)]
  rw [sparseGet_append]
  intro x hx
  have := mem_takeWhile_lt hx
  omega

/-- One byte after a write: the written byte inside the written range, and what was there outside it. -/
theorem Memory.byte_write (d : Byte) (m : List Host.Cell) (a b : Nat) (bs : Bytes) (h : Memory.wf d m) :
    Memory.byte d (Memory.write d m a bs) b =
      if a ≤ b ∧ b < a + bs.length then (bs[b - a]?).getD d else Memory.byte d m b := by
  unfold Memory.byte Memory.write
  by_cases hlo : b < a
  · rw [if_neg (by omega), List.append_assoc, sparseGet_append_right, sparseGet_takeWhile h hlo]
    intro x hx
    rcases List.mem_append.1 hx with hx | hx
    · rcases a with _ | a
      · omega
      · have := entriesOf_above d bs (a + 1) a (by omega) x hx; omega
    · have := mem_dropWhile_le h hx; omega
  · rw [List.append_assoc, sparseGet_append]
    · by_cases hhi : b < a + bs.length
      · rw [if_pos ⟨by omega, hhi⟩, sparseGet_append_right, sparseGet_entriesOf, if_pos (by omega)]
        intro x hx
        have := mem_dropWhile_le h hx
        omega
      · rw [if_neg (by omega), sparseGet_append, sparseGet_dropWhile (by omega)]
        intro x hx
        have := entriesOf_below d bs a x hx
        omega
    · intro x hx
      have := mem_takeWhile_lt hx
      omega

theorem readFrom_eq (d : Byte) (m : List Host.Cell) (a n : Nat) (h : Memory.wf d m) (hm : ∀ x ∈ m, a ≤ x.1) :
    readFrom d m a n = (List.range' a n).map (Memory.byte d m) := by
  induction n generalizing m a with
  | zero => cases m <;> rfl
  | succ n ih =>
    cases m with
    | nil => simp [readFrom, List.range'_succ, ih [] (a + 1) h (by simp), sparseGet]
    | cons x m =>
      obtain ⟨k, v⟩ := x
      obtain ⟨ha, _, hm'⟩ := sparseWf_cons.1 h
      have hk : a ≤ k := hm (k, v) (by simp)
      rw [readFrom, List.range'_succ, List.map_cons]
      split
      · rename_i hka
        subst hka
        rw [ih m (k + 1) hm' (fun x hx => ha x hx)]
        congr 1
        · simp [sparseGet]
        · refine List.map_congr_left fun b hb => ?_
          have : k ≠ b := by have := (List.mem_range'_1.1 hb).1; omega
          simp [sparseGet, this]
      · rename_i hka
        have hlt : a < k := by omega
        rw [ih ((k, v) :: m) (a + 1) h (by
          intro x hx
          rcases List.mem_cons.1 hx with rfl | hx
          · exact hlt
          · have := ha x hx; omega)]
        congr 1
        exact (sparseGet_of_above d _ a (by
          intro x hx
          rcases List.mem_cons.1 hx with rfl | hx
          · exact hlt
          · have := ha x hx; omega)).symm

/-- A read is its addresses' bytes, lowest address first. -/
theorem Memory.read_eq (d : Byte) (m : List Host.Cell) (a n : Nat) (h : Memory.wf d m) :
    Memory.read d m a n = (List.range' a n).map (Memory.byte d m) := by
  unfold Memory.read
  rw [readFrom_eq d _ a n (sparseWf_dropWhile _ h) fun x hx => mem_dropWhile_le h hx]
  refine List.map_congr_left fun b hb => ?_
  exact sparseGet_dropWhile (List.mem_range'_1.1 hb).1

theorem Memory.read_length (d : Byte) (m : List Host.Cell) (a n : Nat) (h : Memory.wf d m) :
    (Memory.read d m a n).length = n := by
  simp [Memory.read_eq d m a n h]

/-- A read of exactly what was written gives it. -/
theorem Memory.read_write (d : Byte) (m : List Host.Cell) (a : Nat) (bs : Bytes) (h : Memory.wf d m) :
    Memory.read d (Memory.write d m a bs) a bs.length = bs := by
  rw [Memory.read_eq d _ a _ (Memory.write_wf d m a bs h)]
  apply List.ext_getElem
  · simp
  · intro i h1 h2
    simp only [List.getElem_map, List.getElem_range', Memory.byte_write d m a _ bs h]
    simp [h2]

/-- A read that shares no byte with a write gives what it gave before. -/
theorem Memory.read_write_apart (d : Byte) (m : List Host.Cell) (a b n : Nat) (bs : Bytes) (h : Memory.wf d m)
    (hab : b + n ≤ a ∨ a + bs.length ≤ b) :
    Memory.read d (Memory.write d m a bs) b n = Memory.read d m b n := by
  rw [Memory.read_eq d _ b n (Memory.write_wf d m a bs h), Memory.read_eq d m b n h]
  refine List.map_congr_left fun x hx => ?_
  have := List.mem_range'_1.1 hx
  rw [Memory.byte_write d m a x bs h, if_neg (by omega)]

/-! ## The machine's memories -/

/-- Right after reset every memory is in its canonical form. -/
theorem State.reset_memories_wf :
    Memory.wf ramByte State.reset.cells.bytes ∧ Memory.wf ramByte State.reset.pool.bytes ∧
    Memory.wf flashByte State.reset.settings.flash ∧ sparseWf 0 State.reset.cells.refs :=
  ⟨sparseWf_nil _, sparseWf_nil _, sparseWf_nil _, sparseWf_nil _⟩

/-- Filling a cell keeps the DRAM's canonical form. -/
theorem CellMem.fill_wf (m : CellMem) (c : Nat) (bs : Bytes) (h : Memory.wf ramByte m.bytes) :
    Memory.wf ramByte (m.fill c bs).bytes := Memory.write_wf _ _ _ _ h

/-- Filling contexts keeps their canonical form. -/
theorem fillContexts_wf (m : List Host.Cell) (cs : List (Fin 16)) (bs : Bytes) (h : Memory.wf ramByte m) :
    Memory.wf ramByte (fillContexts m cs bs) := by
  induction cs generalizing m bs with
  | nil => exact h
  | cons c cs ih => exact ih _ _ (Memory.write_wf _ _ _ _ h)

/-- Rewriting a region keeps the flash's canonical form. -/
theorem Region.rewrite_wf (r : Region) (flash : List Host.Cell) (bs : Bytes) (h : Memory.wf flashByte flash) :
    Memory.wf flashByte (r.rewrite flash bs) := Memory.write_wf _ _ _ _ h

/-- A cut save leaves the flash in its canonical form. -/
theorem SettingsStore.flashAtReset_wf (v : SettingsStore) (n : Nat) (h : Memory.wf flashByte v.flash) :
    Memory.wf flashByte (v.flashAtReset n) := by
  unfold SettingsStore.flashAtReset
  cases v.save with
  | none => exact h
  | some w => dsimp only; split <;> exact Region.rewrite_wf _ _ _ h

end Sys2Proof.Machine
end

