-- ==== Sys2Proof/Laws/Cells.lean ====
section
/-! SUPPORT. What the cell memory's operations can do: the free list's two ends, and what each operation keeps. -/

namespace Sys2Proof.Machine

/-! ## The free list's ends (R43, R44) -/

/-- A cell put back stands at the tail of the free list. -/
theorem freeCells_pushFree (runs : List (Nat × Nat)) (c : Nat) :
    freeCells (pushFree runs c) = freeCells runs ++ [c] := by
  induction runs with
  | nil => simp [pushFree, freeCells]
  | cons r rs ih =>
    rcases rs with _ | ⟨r', rs⟩
    · obtain ⟨a, n⟩ := r
      simp only [pushFree]
      split
      · rename_i h
        subst h
        simp [freeCells, List.range'_concat]
      · simp [freeCells]
    · have : pushFree (r :: r' :: rs) c = r :: pushFree (r' :: rs) c := by
        obtain ⟨a, n⟩ := r; rfl
      rw [this]
      simp only [freeCells, List.flatMap_cons] at ih ⊢
      rw [ih]
      simp

/-- What the head of the free list gives is its first cell. -/
theorem popFree_eq_some {runs rest : List (Nat × Nat)} {c : Nat} (h : popFree runs = some (c, rest)) :
    freeCells runs = c :: freeCells rest := by
  induction runs with
  | nil => simp [popFree] at h
  | cons r rs ih =>
    obtain ⟨a, n⟩ := r
    cases n with
    | zero => simpa [popFree, freeCells] using ih (by simpa [popFree] using h)
    | succ n =>
      simp only [popFree, Option.some.injEq, Prod.mk.injEq] at h
      obtain ⟨rfl, rfl⟩ := h
      split
      · rename_i hn; subst hn; simp [freeCells, List.range']
      · simp [freeCells, List.range'_succ]

/-- The free list gives nothing exactly when it names no cell. -/
theorem popFree_eq_none {runs : List (Nat × Nat)} : popFree runs = none ↔ freeCells runs = [] := by
  induction runs with
  | nil => simp [popFree, freeCells]
  | cons r rs ih =>
    obtain ⟨a, n⟩ := r
    cases n with
    | zero => simpa [popFree, freeCells] using ih
    | succ n => simp [popFree, freeCells, List.range'_succ]

/-! ## One count at a time (R42, R44) -/

theorem CellMem.count_hold {m : CellMem} (h : sparseWf 0 m.refs) (c n : Nat) :
    (m.hold c).count n = if n = c then m.count c + 1 else m.count n := by
  simp only [CellMem.count, CellMem.hold, sparseGet_sparseSet 0 m.refs c n _ h, eq_comm]

theorem CellMem.hold_refs_wf {m : CellMem} (h : sparseWf 0 m.refs) (c : Nat) : sparseWf 0 (m.hold c).refs :=
  sparseSet_wf _ _ _ _ h

theorem CellMem.drop_refs_wf {m : CellMem} (h : sparseWf 0 m.refs) (c : Nat) : sparseWf 0 (m.drop c).refs := by
  unfold CellMem.drop
  split
  · exact h
  · exact sparseSet_wf _ _ _ _ h
  · exact sparseSet_wf _ _ _ _ h

theorem CellMem.acquire_refs_wf {m m' : CellMem} {c : Nat} (h : sparseWf 0 m.refs) (ha : m.acquire = some (c, m')) :
    sparseWf 0 m'.refs := by
  simp only [CellMem.acquire] at ha
  split at ha
  · cases ha
  · obtain ⟨rfl, rfl⟩ : _ = c ∧ _ = m' := by simpa using ha
    exact sparseSet_wf _ _ _ _ h

/-- An acquisition changes no byte and no count but the head cell's, and lowers the free count by 1. -/
theorem CellMem.acquire_spec {m m' : CellMem} {c : Nat} (ha : m.acquire = some (c, m')) :
    m'.bytes = m.bytes ∧ m'.refs = sparseSet 0 m.refs c 1 ∧ freeCells m.free = c :: freeCells m'.free ∧
    m'.freeCount = m.freeCount - 1 ∧ m'.freeLow = min m.freeLow (m.freeCount - 1) := by
  simp only [CellMem.acquire] at ha
  split at ha
  · cases ha
  · rename_i d rest hp
    obtain ⟨rfl, rfl⟩ : d = c ∧ _ = m' := by simpa using ha
    exact ⟨rfl, rfl, popFree_eq_some hp, rfl, rfl⟩

/-! ## Bytes -/

@[simp] theorem CellMem.hold_bytes (m : CellMem) (c : Nat) : (m.hold c).bytes = m.bytes := rfl

@[simp] theorem CellMem.drop_bytes (m : CellMem) (c : Nat) : (m.drop c).bytes = m.bytes := by
  unfold CellMem.drop; split <;> rfl

@[simp] theorem CellMem.holdAll_bytes (m : CellMem) (cs : List Nat) : (m.holdAll cs).bytes = m.bytes := by
  unfold CellMem.holdAll
  induction cs generalizing m with
  | nil => rfl
  | cons c cs ih => simp only [List.foldl_cons, ih, CellMem.hold_bytes]

@[simp] theorem CellMem.dropAll_bytes (m : CellMem) (cs : List Nat) : (m.dropAll cs).bytes = m.bytes := by
  unfold CellMem.dropAll
  induction cs generalizing m with
  | nil => rfl
  | cons c cs ih => simp only [List.foldl_cons, ih, CellMem.drop_bytes]

theorem CellMem.holdAll_refs_wf {m : CellMem} (h : sparseWf 0 m.refs) (cs : List Nat) :
    sparseWf 0 (m.holdAll cs).refs := by
  unfold CellMem.holdAll
  induction cs generalizing m with
  | nil => exact h
  | cons c cs ih => exact ih (CellMem.hold_refs_wf h c)

theorem CellMem.dropAll_refs_wf {m : CellMem} (h : sparseWf 0 m.refs) (cs : List Nat) :
    sparseWf 0 (m.dropAll cs).refs := by
  unfold CellMem.dropAll
  induction cs generalizing m with
  | nil => exact h
  | cons c cs ih => exact ih (CellMem.drop_refs_wf h c)

end Sys2Proof.Machine
end

