-- ==== Sys2Proof/Laws/Link.lean ====
section
/-! SUPPORT. What the control link's shared operations can do: cutting a body into parts, an answer, the judgement of a
request, a request's step, the taking of a request. -/

namespace Sys2Proof.Machine

/-! ## Parts of a body (R174) -/

theorem cutParts_short (n fuel : Nat) (bs : Bytes) (h : bs.length ≤ n) : cutParts n (fuel + 1) bs = [bs] := by
  simp [cutParts, h]

theorem cutParts_ne_nil (n fuel : Nat) (bs : Bytes) : cutParts n (fuel + 1) bs ≠ [] := by
  simp only [cutParts]; split <;> simp

/-- Parts carry the whole body in order when there is fuel for it. -/
theorem cutParts_flatten (n : Nat) : ∀ (fuel : Nat) (bs : Bytes), bs.length ≤ fuel * n → 0 < fuel →
    (cutParts n fuel bs).flatten = bs
  | 0, _, _, h => absurd h (by omega)
  | fuel + 1, bs, hl, _ => by
    simp only [cutParts]
    split
    · simp
    · rename_i h
      rw [List.flatten_cons, cutParts_flatten n fuel (bs.drop n) (by rw [List.length_drop]; rw [Nat.succ_mul] at hl; omega) ?_]
      · simp
      · rcases fuel with _ | k
        · rw [Nat.zero_add, Nat.one_mul] at hl; exact absurd hl h
        · exact Nat.succ_pos k

/-- No part is longer than a part may be. -/
theorem cutParts_length_le (n : Nat) : ∀ (fuel : Nat) (bs : Bytes), ∀ b ∈ cutParts n fuel bs, b.length ≤ n
  | 0, _, _, h => by simp [cutParts] at h
  | fuel + 1, bs, b, h => by
    simp only [cutParts] at h
    split at h
    · simp at h; subst h; assumption
    · rcases List.mem_cons.mp h with h | h
      · subst h; exact List.length_take_le n bs
      · exact cutParts_length_le n fuel _ b h

/-- There are at most as many parts as there is fuel. -/
theorem cutParts_count (n : Nat) : ∀ (fuel : Nat) (bs : Bytes), (cutParts n fuel bs).length ≤ fuel
  | 0, _ => by simp [cutParts]
  | fuel + 1, bs => by
    simp only [cutParts]
    split
    · simp
    · simpa using cutParts_count n fuel (bs.drop n)

/-! ## An answer (R172, R174) -/

/-- A body of at most one part is answered by one reply. -/
theorem State.answer_short (s : State) (code : Byte) (a : Answer) (h : a.body.length ≤ 122) :
    s.answer code a = s.withReply { code := code, outcome := a.outcome, clamped := a.clamped, more := false,
                                    body := a.body } := by
  simp [State.answer, cutParts_short _ _ _ h, replyParts, State.withReply]

@[simp] theorem State.answer_refuse (s : State) (code : Byte) (o : ReplyCode) :
    s.answer code (.refuse o) = s.withReply (Reply.refused code o) := by
  rw [State.answer_short _ _ _ (by simp [Answer.refuse])]; rfl

@[simp] theorem State.answer_set (s : State) (code : Byte) (c : Bool) :
    s.answer code (.set c) = s.withReply (Reply.done code c []) := by
  rw [State.answer_short _ _ _ (by simp [Answer.set])]; rfl

theorem State.answer_done (s : State) (code : Byte) (body : Bytes) (h : body.length ≤ 122) :
    s.answer code (.done body) = s.withReply (Reply.done code false body) := by
  rw [State.answer_short _ _ _ (by simpa [Answer.done] using h)]; rfl

/-- An answer puts a reply and held parts in place and ends the processing; it changes nothing else. -/
theorem State.answer_spec (s : State) (code : Byte) (a : Answer) :
    ∃ r rest, replyParts code a (cutParts Config.partBytes 16 a.body) = r :: rest ∧
      s.answer code a = { s with link := { s.link with reply := r, parts := rest, processing := none } } := by
  rcases h : replyParts code a (cutParts Config.partBytes 16 a.body) with _ | ⟨r, rest⟩
  · exfalso
    rcases hc : cutParts Config.partBytes 16 a.body with _ | ⟨b, _ | ⟨b', bs⟩⟩
    · exact cutParts_ne_nil _ _ _ hc
    · simp [hc, replyParts] at h
    · simp [hc, replyParts] at h
  · exact ⟨r, rest, rfl, by simp [State.answer, h]⟩

/-- An answer keeps everything outside the link, and of the link all but the reply, the parts and the processing. -/
theorem State.answer_keeps (s : State) (code : Byte) (a : Answer) :
    ∃ r rest, s.answer code a = { s with link := { s.link with reply := r, parts := rest, processing := none } } := by
  obtain ⟨r, rest, -, h⟩ := s.answer_spec code a
  exact ⟨r, rest, h⟩

@[simp] theorem State.answer_sameButLink (s : State) (code : Byte) (a : Answer) : s.sameButLink (s.answer code a) := by
  obtain ⟨r, rest, h⟩ := s.answer_keeps code a
  simp [h, State.sameButLink]

/-- The bodies of an answer's replies are its parts. -/
theorem replyParts_bodies (code : Byte) (a : Answer) : ∀ ps : List Bytes, (replyParts code a ps).map (·.body) = ps
  | [] => rfl
  | [b] => rfl
  | b :: b' :: bs => by simpa [replyParts] using replyParts_bodies code a (b' :: bs)

/-- Each reply of an answer carries its code, outcome and CLAMPED. -/
theorem replyParts_marks (code : Byte) (a : Answer) : ∀ ps : List Bytes, ∀ r ∈ replyParts code a ps,
    r.code = code ∧ r.outcome = a.outcome ∧ r.clamped = a.clamped
  | [], _, h => by simp [replyParts] at h
  | [b], r, h => by simp [replyParts] at h; subst h; simp
  | b :: b' :: bs, r, h => by
    simp only [replyParts, List.mem_cons] at h
    rcases h with h | h
    · subst h; simp
    · exact replyParts_marks code a (b' :: bs) r (by simpa [replyParts] using h)

@[simp] theorem State.withReply_sameButLink (s : State) (r : Reply) : s.sameButLink (s.withReply r) := by
  simp [State.withReply, State.sameButLink]

/-! ## Judging a request (R172) -/

@[simp] theorem State.start_dispatches (s : State) (t : Nat) (code : Byte) (body : Bytes) :
    (s.start t).dispatches code body = s.dispatches code body := rfl

/-- A request that reaches its owning block: it is in processing with this code and body, and no step before
dispatch decides it. -/
theorem State.dispatches_spec {s : State} {code : Byte} {body : Bytes} (h : s.dispatches code body = true) :
    ∃ req, s.link.processing = some req ∧ (s.settings.started = true ∨ code = 0x01) ∧ requestCode req = code ∧
      requestBody req = body ∧ requestLength req ≤ 126 ∧ bodyFits code (requestLength req) = some true := by
  unfold State.dispatches at h
  split at h
  · cases h
  · rename_i req hp
    simp only [Bool.and_eq_true, Bool.or_eq_true, beq_iff_eq, decide_eq_true_eq] at h
    obtain ⟨⟨⟨⟨h1, h2⟩, h3⟩, h4⟩, h5⟩ := h
    exact ⟨req, hp, h1, h2, h3, h4, h5⟩

/-- A request that reaches its owning block is not decided before dispatch. -/
theorem State.judgeRequest_of_fits {s : State} {req : Bytes}
    (hs : s.settings.started = true ∨ requestCode req = 0x01) (hl : requestLength req ≤ 126)
    (hf : bodyFits (requestCode req) (requestLength req) = some true) : s.judgeRequest req = none := by
  have h1 : (!s.settings.started && requestCode req != 0x01) = false := by
    rcases hs with hs | hs <;> simp [hs]
  simp only [State.judgeRequest, h1, hf]
  have h2 : ¬ (126 < requestLength req) := by omega
  simp [h2]

/-! ## A request's step -/

/-- A request that reaches its owning block is carried out and answered. -/
theorem carryOut_of_dispatches {s : State} {code : Byte} {body : Bytes} (t : Nat)
    (g : State → Bytes → State × Answer) (h : s.dispatches code body = true) :
    carryOut code t s g = .next ((g (s.start t) body).1.answer code (g (s.start t) body).2) := by
  obtain ⟨req, hp, hs, hc, hb, hl, hf⟩ := State.dispatches_spec h
  have hj : (s.start t).judgeRequest req = none :=
    State.judgeRequest_of_fits (by simpa [hc] using hs) hl (by rw [hc]; exact hf)
  simp only [carryOut, State.start_link, hp, hc, if_true, hj, hb]

/-- Everything a request's step can do: nothing but the clock, a refusal, or the request carried out and answered. -/
theorem carryOut_cases {code : Byte} {t : Nat} {s s' : State} {g : State → Bytes → State × Answer}
    (h : carryOut code t s g = .next s') :
    s' = s.start t ∨ (∃ o, s' = (s.start t).withReply (Reply.refused code o)) ∨
    ∃ body, s' = (g (s.start t) body).1.answer code (g (s.start t) body).2 := by
  simp only [carryOut] at h
  split at h
  · cases h; exact .inl rfl
  · split at h
    · split at h
      · cases h; exact .inr (.inl ⟨_, State.answer_refuse _ _ _⟩)
      · cases h; exact .inr (.inr ⟨_, rfl⟩)
    · cases h; exact .inl rfl

/-- A request's step always answers a next state. -/
theorem carryOut_next (code : Byte) (t : Nat) (s : State) (g : State → Bytes → State × Answer) :
    ∃ s', carryOut code t s g = .next s' := by
  simp only [carryOut]
  split
  · exact ⟨_, rfl⟩
  · split
    · split <;> exact ⟨_, rfl⟩
    · exact ⟨_, rfl⟩

/-! ## Taking a request (R168) -/

/-- Dispatching touches RESET_SEEN alone, which a HELLO clears. -/
theorem State.dispatchHello_eq (s : State) (req : Bytes) :
    s.dispatchHello req =
      { s with link := { s.link with resetSeen := s.link.resetSeen && requestCode req != 0x01 } } := by
  unfold State.dispatchHello
  split
  case isTrue h => simp [h]
  case isFalse h =>
    have hb : (requestCode req != 0x01) = true := bne_iff_ne.mpr h
    rw [hb, Bool.and_true]

/-- A taken request changes only the link: it is in processing, or it is answered at once. -/
theorem State.takeRequest_sameButLink (s : State) (req : Bytes) : s.sameButLink (s.takeRequest req) := by
  simp only [State.takeRequest, State.discardParts, State.dispatchHello]
  split <;> split <;> (try split) <;> simp [State.sameButLink, State.withReply]

end Sys2Proof.Machine
end

