-- ==== Sys2Proof/Laws/PerInstr.lean ====
section
/-! SUPPORT. What holds of every command as syntax, one lemma per constructor. -/

namespace Sys2Proof.Laws.TimeOfCommand

/-- Station time of a command (log entry 1): only the two resets from outside carry none, and a well-formed command's
time fits station time's 64 bits. -/
def Statement (c : Instr) : Prop :=
  (c.time = none ↔ ∃ cut, c = .powerOn cut ∨ c = .resetLine cut) ∧
  ∀ t, c.time = some t → c.wellFormed = true → t < 2 ^ 64

/-- A command that carries a time meets the statement when its time and its constructor say so. -/
theorem of_time {c : Instr} {t : Nat} (h : c.time = some t)
    (hc : ∀ cut, c ≠ .powerOn cut ∧ c ≠ .resetLine cut) : Statement c := by
  refine ⟨⟨fun h' => absurd (h.symm.trans h') nofun, fun ⟨cut, h'⟩ => ?_⟩, fun u hu hw => ?_⟩
  · rcases h' with h' | h'
    · exact absurd h' (hc cut).1
    · exact absurd h' (hc cut).2
  · have : timeFits u = true := by
      simp only [Instr.wellFormed, hu, Bool.and_eq_true] at hw
      exact hw.1
    simpa [timeFits] using this

theorem powerOn (cut : Option ExchangeCut) : Statement (.powerOn cut) :=
  ⟨⟨fun _ => ⟨cut, .inl rfl⟩, fun _ => rfl⟩, fun _ h => by cases h⟩

theorem resetLine (cut : Option ExchangeCut) : Statement (.resetLine cut) :=
  ⟨⟨fun _ => ⟨cut, .inr rfl⟩, fun _ => rfl⟩, fun _ h => by cases h⟩

theorem regionRead (t : Nat) (answers : Bool) : Statement (.regionRead t answers) :=
  of_time (t := t) rfl fun _ => ⟨nofun, nofun⟩

theorem ethernetFrame (t : Nat) (frame : Bytes) : Statement (.ethernetFrame t frame) :=
  of_time (t := t) rfl fun _ => ⟨nofun, nofun⟩

theorem deadlineExpiry (t : Nat) (feed : FeedNo) : Statement (.deadlineExpiry t feed) :=
  of_time (t := t) rfl fun _ => ⟨nofun, nofun⟩

theorem publishTimerExpiry (t : Nat) (feed : FeedNo) : Statement (.publishTimerExpiry t feed) :=
  of_time (t := t) rfl fun _ => ⟨nofun, nofun⟩

theorem completion (t : Nat) (lane : LaneNo) (epoch tag result pad : Byte) : Statement (.completion t lane epoch tag result pad) :=
  of_time (t := t) rfl fun _ => ⟨nofun, nofun⟩

theorem storeTimeout (t : Nat) (lane : LaneNo) (tag : TagNo) : Statement (.storeTimeout t lane tag) :=
  of_time (t := t) rfl fun _ => ⟨nofun, nofun⟩

theorem settlingEnd (t : Nat) : Statement (.settlingEnd t) :=
  of_time (t := t) rfl fun _ => ⟨nofun, nofun⟩

theorem intervalEnd (t : Nat) : Statement (.intervalEnd t) :=
  of_time (t := t) rfl fun _ => ⟨nofun, nofun⟩

theorem spiExchange (t : Nat) (bits : Nat) (mosi : Bytes) : Statement (.spiExchange t bits mosi) :=
  of_time (t := t) rfl fun _ => ⟨nofun, nofun⟩

theorem nextPart (t : Nat) : Statement (.nextPart t) :=
  of_time (t := t) rfl fun _ => ⟨nofun, nofun⟩

theorem hello (t : Nat) : Statement (.hello t) :=
  of_time (t := t) rfl fun _ => ⟨nofun, nofun⟩

theorem setFeed (t : Nat) : Statement (.setFeed t) :=
  of_time (t := t) rfl fun _ => ⟨nofun, nofun⟩

theorem readFeed (t : Nat) : Statement (.readFeed t) :=
  of_time (t := t) rfl fun _ => ⟨nofun, nofun⟩

theorem feedStatus (t : Nat) : Statement (.feedStatus t) :=
  of_time (t := t) rfl fun _ => ⟨nofun, nofun⟩

theorem armTake (t : Nat) : Statement (.armTake t) :=
  of_time (t := t) rfl fun _ => ⟨nofun, nofun⟩

theorem stopTake (t : Nat) : Statement (.stopTake t) :=
  of_time (t := t) rfl fun _ => ⟨nofun, nofun⟩

theorem abortTake (t : Nat) : Statement (.abortTake t) :=
  of_time (t := t) rfl fun _ => ⟨nofun, nofun⟩

theorem releaseTake (t : Nat) : Statement (.releaseTake t) :=
  of_time (t := t) rfl fun _ => ⟨nofun, nofun⟩

theorem takeStatus (t : Nat) : Statement (.takeStatus t) :=
  of_time (t := t) rfl fun _ => ⟨nofun, nofun⟩

theorem flushIndex (t : Nat) : Statement (.flushIndex t) :=
  of_time (t := t) rfl fun _ => ⟨nofun, nofun⟩

theorem setMonitor (t : Nat) : Statement (.setMonitor t) :=
  of_time (t := t) rfl fun _ => ⟨nofun, nofun⟩

theorem setActions (t : Nat) : Statement (.setActions t) :=
  of_time (t := t) rfl fun _ => ⟨nofun, nofun⟩

theorem readConditions (t : Nat) : Statement (.readConditions t) :=
  of_time (t := t) rfl fun _ => ⟨nofun, nofun⟩

theorem clearConditions (t : Nat) : Statement (.clearConditions t) :=
  of_time (t := t) rfl fun _ => ⟨nofun, nofun⟩

theorem readNotices (t : Nat) : Statement (.readNotices t) :=
  of_time (t := t) rfl fun _ => ⟨nofun, nofun⟩

theorem clearNotices (t : Nat) : Statement (.clearNotices t) :=
  of_time (t := t) rfl fun _ => ⟨nofun, nofun⟩

theorem setNoticeEnables (t : Nat) : Statement (.setNoticeEnables t) :=
  of_time (t := t) rfl fun _ => ⟨nofun, nofun⟩

theorem setStore (t : Nat) : Statement (.setStore t) :=
  of_time (t := t) rfl fun _ => ⟨nofun, nofun⟩

theorem storeStatus (t : Nat) : Statement (.storeStatus t) :=
  of_time (t := t) rfl fun _ => ⟨nofun, nofun⟩

theorem resetStore (t : Nat) : Statement (.resetStore t) :=
  of_time (t := t) rfl fun _ => ⟨nofun, nofun⟩

theorem saveSettings (t : Nat) : Statement (.saveSettings t) :=
  of_time (t := t) rfl fun _ => ⟨nofun, nofun⟩

theorem regionWrite (t : Nat) (answers : Bool) (held : Option Bytes) : Statement (.regionWrite t answers held) :=
  of_time (t := t) rfl fun _ => ⟨nofun, nofun⟩

theorem reset (t : Nat) (cut : Option ExchangeCut) : Statement (.reset t cut) :=
  of_time (t := t) rfl fun _ => ⟨nofun, nofun⟩

end Sys2Proof.Laws.TimeOfCommand
end

