-- ==== Sys2Proof/Laws/Store.lean ====
section
/-! SUPPORT. What the store port's shared operations can do: a choice, an issue, the lanes' choices until none is left,
a join, a withdrawal. -/

namespace Sys2Proof.Machine

/-! ## Taking the first that meets a test -/

theorem takeFirst_eq_some {p : α → Bool} {l : List α} {x : α} {rest : List α} (h : takeFirst p l = some (x, rest)) :
    ∃ before after, l = before ++ x :: after ∧ rest = before ++ after ∧ p x = true ∧ ∀ y ∈ before, p y = false := by
  induction l generalizing rest with
  | nil => simp [takeFirst] at h
  | cons a l ih =>
    simp only [takeFirst] at h
    split at h
    · rename_i ha
      obtain ⟨rfl, rfl⟩ : a = x ∧ l = rest := by simpa using h
      exact ⟨[], l, rfl, rfl, ha, by simp⟩
    · rename_i ha
      obtain ⟨y, hy, hx⟩ := Option.map_eq_some_iff.mp h
      obtain ⟨rfl, rfl⟩ : y.1 = x ∧ a :: y.2 = rest := by simpa using hx
      obtain ⟨b, c, h1, h2, h3, h4⟩ := ih (rest := y.2) (by rw [hy])
      exact ⟨a :: b, c, by simp [h1], by simp [h2], h3, by simpa [ha] using h4⟩

theorem takeFirst_eq_none {p : α → Bool} {l : List α} : takeFirst p l = none ↔ ∀ y ∈ l, p y = false := by
  induction l with
  | nil => simp [takeFirst]
  | cons a l ih =>
    simp only [takeFirst]
    split
    · rename_i h; simp [h]
    · rename_i h; simp [ih, h]

/-! ## A choice (R133) -/

/-- A chosen request is an eligible one of some class, and only leaves that class's queue. -/
theorem StorePort.choose_cases {p p' : StorePort} {lane : LaneNo} {r : Request} (h : p.choose lane = some (r, p')) :
    ∃ c before after, p.queue c = before ++ r :: after ∧ p' = p.setQueue c (before ++ after) ∧ p.pageFree r = true ∧
      p.held c = false ∧ p.settling = .ended := by
  have key : ∀ c q, p.eligible lane c = some (r, q) → ∃ before after, p.queue c = before ++ r :: after ∧
      q = before ++ after ∧ p.pageFree r = true ∧ p.held c = false := by
    intro c q he
    simp only [StorePort.eligible] at he
    split at he
    · cases he
    · rename_i hn
      obtain ⟨b, a, h1, h2, h3, -⟩ := takeFirst_eq_some he
      refine ⟨b, a, h1, h2, h3, ?_⟩
      simp at hn
      exact hn.1
  simp only [StorePort.choose] at h
  split at h
  · cases h
  · rename_i hs
    have hs : p.settling = .ended := by simpa using hs
    split at h
    · rename_i r' q he
      obtain ⟨rfl, rfl⟩ : r' = r ∧ _ = p' := by simpa using h
      obtain ⟨b, a, h1, h2, h3, h4⟩ := key _ _ he
      exact ⟨.index, b, a, h1, by simp [StorePort.setQueue, h2], h3, h4, hs⟩
    · split at h
      · rename_i r' q he
        obtain ⟨rfl, rfl⟩ : r' = r ∧ _ = p' := by simpa using h
        obtain ⟨b, a, h1, h2, h3, h4⟩ := key _ _ he
        exact ⟨.essence, b, a, h1, by simp [StorePort.setQueue, h2], h3, h4, hs⟩
      · split at h
        · rename_i r' q he
          obtain ⟨rfl, rfl⟩ : r' = r ∧ _ = p' := by simpa using h
          obtain ⟨b, a, h1, h2, h3, h4⟩ := key _ _ he
          exact ⟨.browse, b, a, h1, by simp [StorePort.setQueue, h2], h3, h4, hs⟩
        · cases h

/-- With every queue empty there is nothing to choose. -/
theorem StorePort.choose_none_of_empty {p : StorePort} (hi : p.indexQ = []) (he : p.essenceQ = [])
    (hb : p.browseQ = []) (lane : LaneNo) : p.choose lane = none := by
  rcases hc : p.choose lane with _ | ⟨r, p'⟩
  · rfl
  · obtain ⟨c, b, a, h, -⟩ := StorePort.choose_cases hc
    cases c <;> simp [StorePort.queue, hi, he, hb] at h

/-! ## An issue (R135) -/

/-- A lane's free tag is free. -/
theorem Lane.freeTag_free {l : Lane} {g : TagNo} (h : l.freeTag = some g) : l.tags[g] = .free := by
  have h1 := List.find?_some h
  rcases ht : l.tags[g] with _ | i | i <;> simp [ht, Tag.isFree] at h1 ⊢

/-- Everything one issue does: a request leaves its queue and is bound to a free tag of the lane, the lane's count of
issues grows, and one WRITE is sent. -/
theorem State.tryIssue_cases {s s' : State} {lane : LaneNo} (h : s.tryIssue lane = some s') :
    ∃ (tag : TagNo) (r : Request) (c : StoreClass) (before after : List Request) (w : LaneMessage),
      s.store.lanes[lane].tags[tag] = .free ∧ s.store.queue c = before ++ r :: after ∧
      s.store.pageFree r = true ∧ s.store.held c = false ∧ s.store.settling = .ended ∧
      w = { lane := lane, bytes := writeBytes s.store.epoch lane tag r (s.requestData r) } ∧
      s' = { s with
        store := { s.store.setQueue c (before ++ after) with
          lanes := s.store.lanes.set lane { s.store.lanes[lane] with
            tags := s.store.lanes[lane].tags.set tag (.inFlight
              { request := r, epoch := s.store.epoch, issued := s.time,
                deadline := s.time + s.store.settings.timeout * 1000 })
            issued := wrapAdd s.store.lanes[lane].issued 1 } }
        out := { s.out with writes := s.out.writes ++ [w] } } := by
  simp only [State.tryIssue] at h
  split at h
  · rename_i tag r port ht hc
    obtain ⟨c, b, a, h1, rfl, h3, h4, h5⟩ := StorePort.choose_cases hc
    refine ⟨tag, r, c, b, a, _, Lane.freeTag_free ht, h1, h3, h4, h5, rfl, ?_⟩
    simpa using h.symm
  · cases h

/-- What holds of a state and is kept by each issue, whatever the free values, holds when the lanes have chosen. -/
theorem State.arbitrate_induction {P : State → Prop} (s : State) (h : P s)
    (hi : ∀ s s' lane, P s → s.tryIssue lane = some s' → P s') (hf : ∀ s v, P s → P { s with free := v }) :
    P s.arbitrate := by
  have key : ∀ n s, P s → P (arbitrateN n s) := by
    intro n
    induction n with
    | zero => intro s h; exact h
    | succ n ih =>
      intro s h
      simp only [arbitrateN]
      split
      · exact h
      · rename_i ha _; exact ih _ (hi _ _ _ h ha)
      · rename_i hb; exact ih _ (hi _ _ _ h hb)
      · rename_i ha hb
        refine ih _ (hf _ _ ?_)
        split
        · exact hi _ _ _ h hb
        · exact hi _ _ _ h ha
  exact key 16 s h

/-- The lanes' choices change the queues, the tags, the issue counts, the free values and what is sent, and nothing
else. -/
theorem State.arbitrate_keeps (s : State) : ∃ (i e b : List Request) (lanes : Vector Lane 2) (v : FreeValues)
    (o : Output), s.arbitrate = { s with
      store := { s.store with indexQ := i, essenceQ := e, browseQ := b, lanes := lanes }, free := v, out := o } := by
  refine State.arbitrate_induction (P := fun t => ∃ (i e b : List Request) (lanes : Vector Lane 2) (v : FreeValues)
    (o : Output), t = { s with
      store := { s.store with indexQ := i, essenceQ := e, browseQ := b, lanes := lanes }, free := v, out := o })
    s ⟨_, _, _, _, _, _, rfl⟩ ?_ ?_
  · rintro t t' lane ⟨i, e, b, lanes, v, o, rfl⟩ h
    obtain ⟨tag, r, c, before, after, w, -, -, -, -, -, -, rfl⟩ := State.tryIssue_cases h
    cases c <;> exact ⟨_, _, _, _, _, _, rfl⟩
  · rintro t v' ⟨i, e, b, lanes, v, o, rfl⟩
    exact ⟨i, e, b, lanes, v', o, rfl⟩

@[simp] theorem State.arbitrate_time (s : State) : s.arbitrate.time = s.time := by
  obtain ⟨_, _, _, _, _, _, h⟩ := s.arbitrate_keeps; rw [h]

@[simp] theorem State.arbitrate_line (s : State) : s.arbitrate.line = s.line := by
  obtain ⟨_, _, _, _, _, _, h⟩ := s.arbitrate_keeps; rw [h]

@[simp] theorem State.arbitrate_intake (s : State) : s.arbitrate.intake = s.intake := by
  obtain ⟨_, _, _, _, _, _, h⟩ := s.arbitrate_keeps; rw [h]

@[simp] theorem State.arbitrate_feeds (s : State) : s.arbitrate.feeds = s.feeds := by
  obtain ⟨_, _, _, _, _, _, h⟩ := s.arbitrate_keeps; rw [h]

@[simp] theorem State.arbitrate_cells (s : State) : s.arbitrate.cells = s.cells := by
  obtain ⟨_, _, _, _, _, _, h⟩ := s.arbitrate_keeps; rw [h]

@[simp] theorem State.arbitrate_pool (s : State) : s.arbitrate.pool = s.pool := by
  obtain ⟨_, _, _, _, _, _, h⟩ := s.arbitrate_keeps; rw [h]

@[simp] theorem State.arbitrate_monitor (s : State) : s.arbitrate.monitor = s.monitor := by
  obtain ⟨_, _, _, _, _, _, h⟩ := s.arbitrate_keeps; rw [h]

@[simp] theorem State.arbitrate_link (s : State) : s.arbitrate.link = s.link := by
  obtain ⟨_, _, _, _, _, _, h⟩ := s.arbitrate_keeps; rw [h]

@[simp] theorem State.arbitrate_settings (s : State) : s.arbitrate.settings = s.settings := by
  obtain ⟨_, _, _, _, _, _, h⟩ := s.arbitrate_keeps; rw [h]

@[simp] theorem State.arbitrate_pending (s : State) : s.arbitrate.pending = s.pending := by
  obtain ⟨_, _, _, _, _, _, h⟩ := s.arbitrate_keeps; rw [h]

@[simp] theorem State.arbitrate_feed (s : State) (f : FeedNo) : s.arbitrate.feed f = s.feed f := by
  simp [State.feed]

@[simp] theorem State.arbitrate_take (s : State) (f : FeedNo) : s.arbitrate.take f = s.take f := by
  simp [State.take]

@[simp] theorem State.arbitrate_window (s : State) (f : FeedNo) : s.arbitrate.window f = s.window f := by
  simp [State.window]

@[simp] theorem State.arbitrate_health (s : State) (f : FeedNo) : s.arbitrate.health f = s.health f := by
  simp [State.health]

@[simp] theorem State.arbitrate_epoch (s : State) : s.arbitrate.store.epoch = s.store.epoch := by
  obtain ⟨_, _, _, _, _, _, h⟩ := s.arbitrate_keeps; rw [h]

@[simp] theorem State.arbitrate_storeSettings (s : State) : s.arbitrate.store.settings = s.store.settings := by
  obtain ⟨_, _, _, _, _, _, h⟩ := s.arbitrate_keeps; rw [h]

@[simp] theorem State.arbitrate_settling (s : State) : s.arbitrate.store.settling = s.store.settling := by
  obtain ⟨_, _, _, _, _, _, h⟩ := s.arbitrate_keeps; rw [h]

/-- With every queue empty the lanes have nothing to choose. -/
theorem State.arbitrate_of_empty {s : State} (hi : s.store.indexQ = []) (he : s.store.essenceQ = [])
    (hb : s.store.browseQ = []) : s.arbitrate = s := by
  have h : ∀ lane, s.tryIssue lane = none := by
    intro lane
    simp only [State.tryIssue, StorePort.choose_none_of_empty hi he hb lane]
    split
    · rename_i h; cases h
    · rfl
  simp only [State.arbitrate, arbitrateN, h]

/-! ## Requests that stay at the store port -/

/-- A request is at the store port: queued, in flight or quarantined. -/
def StorePort.has (p : StorePort) (r : Request) : Prop :=
  r ∈ p.indexQ ∨ r ∈ p.essenceQ ∨ r ∈ p.browseQ ∨ ∃ i ∈ p.bound, i.request = r

/-- A tag of a port, in the list of its bound requests. -/
theorem StorePort.mem_bound {p : StorePort} {i : Issued} :
    i ∈ p.bound ↔ ∃ (l : LaneNo) (g : TagNo), p.lanes[l].tags[g].issued? = some i := by
  simp only [StorePort.bound, List.mem_flatMap, List.mem_filterMap, Vector.mem_toList_iff, Vector.mem_iff_getElem]
  constructor
  · rintro ⟨l, ⟨a, ha, rfl⟩, t, ⟨b, hb, rfl⟩, h⟩
    exact ⟨⟨a, ha⟩, ⟨b, hb⟩, h⟩
  · rintro ⟨l, g, h⟩
    exact ⟨_, ⟨l.val, l.isLt, rfl⟩, _, ⟨g.val, g.isLt, rfl⟩, h⟩

/-- A tag of a port, in the list of its requests in flight. -/
theorem StorePort.mem_flying {p : StorePort} {i : Issued} :
    i ∈ p.flying ↔ ∃ (l : LaneNo) (g : TagNo), p.lanes[l].tags[g] = .inFlight i := by
  simp only [StorePort.flying, List.mem_flatMap, List.mem_filterMap, Vector.mem_toList_iff, Vector.mem_iff_getElem]
  constructor
  · rintro ⟨l, ⟨a, ha, rfl⟩, t, ⟨b, hb, rfl⟩, h⟩
    refine ⟨⟨a, ha⟩, ⟨b, hb⟩, ?_⟩
    rcases ht : p.lanes[a].tags[b] with _ | r | r <;> simp [ht] at h ⊢
    exact h
  · rintro ⟨l, g, h⟩
    exact ⟨_, ⟨l.val, l.isLt, rfl⟩, _, ⟨g.val, g.isLt, rfl⟩, by
      simp only [Fin.getElem_fin] at h; simp [h]⟩

/-- After one issue a tag is what it was, or it is the issued one and was free. -/
theorem State.tryIssue_tag {s s' : State} {lane : LaneNo} (h : s.tryIssue lane = some s') (l : LaneNo) (g : TagNo) :
    s'.store.lanes[l].tags[g] = s.store.lanes[l].tags[g] ∨
    (s.store.lanes[l].tags[g] = .free ∧ ∃ i, s'.store.lanes[l].tags[g] = .inFlight i ∧
      ∃ c, i.request ∈ s.store.queue c) := by
  obtain ⟨tag, r, c, b, a, w, h1, h2, -, -, -, -, rfl⟩ := State.tryIssue_cases h
  by_cases hl : lane = l
  · subst hl
    by_cases hg : tag = g
    · subst hg
      refine .inr ⟨h1, _, by simp; rfl, c, by simp [h2]⟩
    · refine .inl ?_
      have : tag.val ≠ g.val := fun h => hg (Fin.ext h)
      simp [this]
  · refine .inl ?_
    have : lane.val ≠ l.val := fun h => hl (Fin.ext h)
    simp [this]

/-- A tag in flight or quarantined is not touched by the lanes' choices. -/
theorem State.arbitrate_tag {s : State} {l : LaneNo} {g : TagNo} (h : s.store.lanes[l].tags[g] ≠ .free) :
    s.arbitrate.store.lanes[l].tags[g] = s.store.lanes[l].tags[g] := by
  refine State.arbitrate_induction (P := fun t => t.store.lanes[l].tags[g] = s.store.lanes[l].tags[g]) s rfl ?_
    fun _ _ h => h
  intro t t' lane ht hi
  rcases State.tryIssue_tag hi l g with h' | ⟨h', -⟩
  · rw [h', ht]
  · exact absurd (ht ▸ h') h

/-- A queued request stays queued until it is in flight. -/
theorem State.arbitrate_request {s : State} {c : StoreClass} {r : Request} (h : r ∈ s.store.queue c) :
    r ∈ s.arbitrate.store.queue c ∨ ∃ i ∈ s.arbitrate.store.flying, i.request = r := by
  refine State.arbitrate_induction
    (P := fun t => r ∈ t.store.queue c ∨ ∃ i ∈ t.store.flying, i.request = r) s (.inl h) ?_ fun _ _ h => h
  intro t t' lane ht hi
  obtain ⟨tag, q, d, b, a, w, h1, h2, -, -, -, -, he⟩ := State.tryIssue_cases hi
  rcases ht with ht | ⟨i, hf, rfl⟩
  · have hq : ∀ e, t'.store.queue e = (t.store.setQueue d (b ++ a)).queue e := by
      intro e; subst he; cases e <;> rfl
    by_cases hcd : d = c
    · subst hcd
      rw [h2] at ht
      simp only [List.mem_append, List.mem_cons] at ht
      rcases ht with ht | rfl | ht
      · left; rw [hq]; simp [ht]
      · right
        refine ⟨{ request := r, epoch := t.store.epoch, issued := t.time,
                  deadline := t.time + t.store.settings.timeout * 1000 },
          StorePort.mem_flying.mpr ⟨lane, tag, ?_⟩, rfl⟩
        subst he; simp
      · left; rw [hq]; simp [ht]
    · left; rw [hq, StorePort.queue_setQueue_ne _ _ hcd]; exact ht
  · right
    obtain ⟨l, g, hg⟩ := StorePort.mem_flying.mp hf
    refine ⟨i, StorePort.mem_flying.mpr ⟨l, g, ?_⟩, rfl⟩
    rcases State.tryIssue_tag hi l g with h' | ⟨h', -⟩
    · rw [h', hg]
    · rw [hg] at h'; cases h'

/-- The lanes' choices bring no new request: what is queued was queued, and what is bound was bound or queued. -/
theorem State.arbitrate_requests (s : State) :
    (∀ c, ∀ r ∈ s.arbitrate.store.queue c, r ∈ s.store.queue c) ∧
    ∀ i ∈ s.arbitrate.store.bound, i ∈ s.store.bound ∨ ∃ c, i.request ∈ s.store.queue c := by
  refine State.arbitrate_induction (P := fun t => (∀ c, ∀ r ∈ t.store.queue c, r ∈ s.store.queue c) ∧
    ∀ i ∈ t.store.bound, i ∈ s.store.bound ∨ ∃ c, i.request ∈ s.store.queue c) s ⟨fun _ _ h => h, fun _ h => .inl h⟩ ?_
    fun _ _ h => h
  rintro t t' lane ⟨hq, hb⟩ hi
  constructor
  · obtain ⟨tag, q, d, b, a, w, h1, h2, -, -, -, -, he⟩ := State.tryIssue_cases hi
    intro c r hr
    have he' : t'.store.queue c = (t.store.setQueue d (b ++ a)).queue c := by subst he; cases c <;> rfl
    rw [he'] at hr
    by_cases hcd : d = c
    · subst hcd
      refine hq d r ?_
      rw [h2]
      simp at hr ⊢
      rcases hr with h | h <;> simp [h]
    · rw [StorePort.queue_setQueue_ne _ _ hcd] at hr
      exact hq c r hr
  · intro i hm
    obtain ⟨l, g, hg⟩ := StorePort.mem_bound.mp hm
    rcases State.tryIssue_tag hi l g with h' | ⟨-, j, h', c, hc⟩
    · exact hb i (StorePort.mem_bound.mpr ⟨l, g, h' ▸ hg⟩)
    · rw [h'] at hg
      obtain rfl : j = i := by simpa [Tag.issued?] using hg
      exact .inr ⟨c, hq c _ hc⟩

/-- The queues only shrink as the lanes choose. -/
theorem State.arbitrate_queue_length (s : State) (c : StoreClass) :
    (s.arbitrate.store.queue c).length ≤ (s.store.queue c).length := by
  refine State.arbitrate_induction (P := fun t => (t.store.queue c).length ≤ (s.store.queue c).length) s (Nat.le_refl _)
    ?_ fun _ _ h => h
  intro t t' lane ht hi
  obtain ⟨tag, q, d, b, a, w, h1, h2, -, -, -, -, he⟩ := State.tryIssue_cases hi
  have he' : t'.store.queue c = (t.store.setQueue d (b ++ a)).queue c := by subst he; cases c <;> rfl
  rw [he']
  by_cases hcd : d = c
  · subst hcd; rw [h2] at ht; simp at ht ⊢; omega
  · rw [StorePort.queue_setQueue_ne _ _ hcd]; exact ht

/-! ## A join (R129) -/

/-- A joined request is at the tail of its queue and then the lanes choose; nothing outside the port changes but the
free values and what is sent. -/
theorem State.join_has (s : State) (r : Request) :
    r ∈ (s.join r).store.queue r.cls ∨ ∃ i ∈ (s.join r).store.flying, i.request = r :=
  State.arbitrate_request (by simp)

@[simp] theorem State.join_feeds (s : State) (r : Request) : (s.join r).feeds = s.feeds := by simp [State.join]

@[simp] theorem State.join_cells (s : State) (r : Request) : (s.join r).cells = s.cells := by simp [State.join]

@[simp] theorem State.join_pool (s : State) (r : Request) : (s.join r).pool = s.pool := by simp [State.join]

@[simp] theorem State.join_link (s : State) (r : Request) : (s.join r).link = s.link := by simp [State.join]

@[simp] theorem State.join_time (s : State) (r : Request) : (s.join r).time = s.time := by simp [State.join]

@[simp] theorem State.join_feed (s : State) (r : Request) (f : FeedNo) : (s.join r).feed f = s.feed f := by
  simp [State.feed]

@[simp] theorem State.join_take (s : State) (r : Request) (f : FeedNo) : (s.join r).take f = s.take f := by
  simp [State.take]

/-! ## A withdrawal (R143) -/

/-- After a withdrawal no request of the take is queued, and the requests of the others stand in their order. -/
theorem State.withdraw_queue (s : State) (f : FeedNo) (c : StoreClass) :
    (s.withdraw f).store.queue c = (s.store.queue c).filter fun r => r.take != f := by
  have h : (s.withdraw f).store.queue c = ({ s.store with
      indexQ := s.store.indexQ.filter fun r => r.take != f
      essenceQ := s.store.essenceQ.filter fun r => r.take != f
      browseQ := s.store.browseQ.filter fun r => r.take != f } : StorePort).queue c := by
    simp only [State.withdraw]
    split
    · cases c <;> rfl
    · simp only [State.clearBusy, State.freeEnded]
      split <;> cases c <;> rfl
  rw [h]
  cases c <;> rfl

/-- A withdrawal leaves the tags, the epoch and the settings of the port. -/
theorem State.withdraw_port (s : State) (f : FeedNo) :
    (s.withdraw f).store.lanes = s.store.lanes ∧ (s.withdraw f).store.epoch = s.store.epoch ∧
    (s.withdraw f).store.settings = s.store.settings ∧ (s.withdraw f).store.settling = s.store.settling := by
  simp only [State.withdraw]
  split
  · exact ⟨rfl, rfl, rfl, rfl⟩
  · simp only [State.clearBusy, State.freeEnded]
    split <;> exact ⟨rfl, rfl, rfl, rfl⟩

theorem StorePort.anyQueued_eq_false {p : StorePort} {f : FeedNo} :
    p.anyQueued f = false ↔ ∀ c, ∀ r ∈ p.queue c, r.take ≠ f := by
  simp only [StorePort.anyQueued, List.any_eq_false, List.mem_append, beq_iff_eq]
  constructor
  · intro h c r hr
    refine h r ?_
    cases c
    · exact .inl (.inl hr)
    · exact .inl (.inr hr)
    · exact .inr hr
  · rintro h r ((hr | hr) | hr)
    · exact h .index r hr
    · exact h .essence r hr
    · exact h .browse r hr

@[simp] theorem State.withdraw_anyQueued (s : State) (f : FeedNo) : (s.withdraw f).store.anyQueued f = false := by
  rw [StorePort.anyQueued_eq_false]
  intro c r hr
  rw [State.withdraw_queue] at hr
  simpa using (List.mem_filter.mp hr).2

end Sys2Proof.Machine
end

