-- ==== Sys2Proof/Laws/Takes.lean ====
section
/-! SUPPORT. How far the window unit, the composer, the browse builder and the take manager reach: each of their shared
operations on feed `f` touches only that feed, and of the rest only the cells, the contexts, the store port's requests,
the pending notices and what is sent. -/

namespace Sys2Proof.Machine

/-! ## Touching one feed -/

/-- The settings of a feed's health records are the same: thresholds, autoclear, selects and action sets. -/
def Health.sameSettings (h h' : Health) : Prop :=
  h'.loss = h.loss ∧ h'.late = h.late ∧ h'.patch = h.patch ∧ h'.autoclear = h.autoclear ∧
  ∀ i : Fin 17, h'.conds[i].select = h.conds[i].select ∧ h'.conds[i].actions = h.conds[i].actions

theorem Health.sameSettings_refl (h : Health) : h.sameSettings h := ⟨rfl, rfl, rfl, rfl, fun _ => ⟨rfl, rfl⟩⟩

theorem Health.sameSettings_trans {h h' h'' : Health} (a : h.sameSettings h') (b : h'.sameSettings h'') :
    h.sameSettings h'' :=
  ⟨b.1.trans a.1, b.2.1.trans a.2.1, b.2.2.1.trans a.2.2.1, b.2.2.2.1.trans a.2.2.2.1,
    fun i => ⟨(b.2.2.2.2 i).1.trans (a.2.2.2.2 i).1, (b.2.2.2.2 i).2.trans (a.2.2.2.2 i).2⟩⟩

theorem Health.autoclears_sameSettings (h : Health) : h.sameSettings h.autoclears := by
  unfold Health.autoclears
  split
  · refine ⟨rfl, rfl, rfl, rfl, fun i => ?_⟩
    simp only [Fin.getElem_fin, Vector.getElem_map]
    split <;> exact ⟨rfl, rfl⟩
  · exact Health.sameSettings_refl h

/-- `s'` differs from `s` at most in feed `f`'s window, counts, take and flags, and in the cells, the contexts, the
requests at the store port, the pending notices, the free values and what is sent. -/
structure State.Touches (f : FeedNo) (s s' : State) : Prop where
  time : s'.time = s.time
  line : s'.line = s.line
  intake : s'.intake = s.intake
  monitor : s'.monitor = s.monitor
  settings : s'.settings = s.settings
  pending : s'.pending = s.pending
  link : s'.link = { s.link with pending := s'.link.pending }
  epoch : s'.store.epoch = s.store.epoch
  storeSettings : s'.store.settings = s.store.settings
  settling : s'.store.settling = s.store.settling
  others : s.otherFeedsSame s' f
  entry : (s'.feed f).entry = (s.feed f).entry
  intakeOf : (s'.feed f).intake = (s.feed f).intake
  health : (s.health f).sameSettings (s'.health f)

namespace State.Touches

variable {f : FeedNo} {s s' s'' : State}

theorem refl (f : FeedNo) (s : State) : State.Touches f s s :=
  ⟨rfl, rfl, rfl, rfl, rfl, rfl, rfl, rfl, rfl, rfl, fun _ _ => rfl, rfl, rfl, Health.sameSettings_refl _⟩

theorem trans (a : State.Touches f s s') (b : State.Touches f s' s'') : State.Touches f s s'' where
  time := b.time.trans a.time
  line := b.line.trans a.line
  intake := b.intake.trans a.intake
  monitor := b.monitor.trans a.monitor
  settings := b.settings.trans a.settings
  pending := b.pending.trans a.pending
  link := by rw [b.link, a.link]
  epoch := b.epoch.trans a.epoch
  storeSettings := b.storeSettings.trans a.storeSettings
  settling := b.settling.trans a.settling
  others := fun g hg => (b.others g hg).trans (a.others g hg)
  entry := b.entry.trans a.entry
  intakeOf := b.intakeOf.trans a.intakeOf
  health := Health.sameSettings_trans a.health b.health

end State.Touches

variable (s : State) (f : FeedNo)

/-- A change of one feed that keeps its entry, its path accounting and its monitor settings touches that feed. -/
theorem State.touches_setFeed {x : Feed} (he : x.entry = (s.feed f).entry) (hi : x.intake = (s.feed f).intake)
    (hh : (s.health f).sameSettings x.health) : State.Touches f s (s.setFeed f x) :=
  ⟨rfl, rfl, rfl, rfl, rfl, rfl, rfl, rfl, rfl, rfl, fun g hg => State.feed_setFeed_ne s x (Ne.symm hg),
    by simpa using he, by simpa using hi, by simpa [State.health] using hh⟩

theorem State.touches_setTake (t : Take) : State.Touches f s (s.setTake f t) :=
  State.touches_setFeed s f rfl rfl (Health.sameSettings_refl _)

theorem State.touches_setWindow (w : Window) : State.Touches f s (s.setWindow f w) :=
  State.touches_setFeed s f rfl rfl (Health.sameSettings_refl _)

theorem State.touches_setHealth {h : Health} (hh : (s.health f).sameSettings h) :
    State.Touches f s (s.setHealth f h) :=
  State.touches_setFeed s f rfl rfl hh

theorem State.touches_cells (m : CellMem) : State.Touches f s { s with cells := m } :=
  ⟨rfl, rfl, rfl, rfl, rfl, rfl, rfl, rfl, rfl, rfl, fun _ _ => rfl, rfl, rfl, Health.sameSettings_refl _⟩

theorem State.touches_pool (p : ContextPool) : State.Touches f s { s with pool := p } :=
  ⟨rfl, rfl, rfl, rfl, rfl, rfl, rfl, rfl, rfl, rfl, fun _ _ => rfl, rfl, rfl, Health.sameSettings_refl _⟩

theorem State.touches_dropCells (cs : List Nat) : State.Touches f s (s.dropCells cs) :=
  State.touches_cells s f _

theorem State.touches_raiseFeed (g : FeedNo) (n : Nat) : State.Touches f s (s.raiseFeed g n) :=
  ⟨rfl, rfl, rfl, rfl, rfl, rfl, rfl, rfl, rfl, rfl, fun _ _ => rfl, rfl, rfl, Health.sameSettings_refl _⟩

theorem State.touches_freeContexts (g : FeedNo) : State.Touches f s (s.freeContexts g) :=
  State.touches_pool s f _

theorem State.touches_arbitrate : State.Touches f s s.arbitrate :=
  ⟨by simp, by simp, by simp, by simp, by simp, by simp, by simp, by simp, by simp, by simp, fun _ _ => by simp,
    by simp, by simp, by simpa using Health.sameSettings_refl _⟩

/-- A change of the store port's requests and counts touches no feed. -/
theorem State.touches_store {p : StorePort} (he : p.epoch = s.store.epoch) (hs : p.settings = s.store.settings)
    (hl : p.settling = s.store.settling) : State.Touches f s { s with store := p } :=
  ⟨rfl, rfl, rfl, rfl, rfl, rfl, rfl, he, hs, hl, fun _ _ => rfl, rfl, rfl, Health.sameSettings_refl _⟩

theorem State.touches_cells_store {m : CellMem} {p : StorePort} (he : p.epoch = s.store.epoch)
    (hs : p.settings = s.store.settings) (hl : p.settling = s.store.settling) :
    State.Touches f s { s with cells := m, store := p } :=
  ⟨rfl, rfl, rfl, rfl, rfl, rfl, rfl, he, hs, hl, fun _ _ => rfl, rfl, rfl, Health.sameSettings_refl _⟩

theorem State.touches_join (r : Request) : State.Touches f s (s.join r) :=
  (State.touches_store s f (by simp) (by simp) (by simp)).trans (State.touches_arbitrate _ f)

/-! ## Browse contexts and slice sources -/

theorem State.touches_freeEnded : State.Touches f s (s.freeEnded f) := by
  unfold State.freeEnded; split
  · exact State.touches_freeContexts s f f
  · exact .refl f s

theorem State.touches_clearBusy : State.Touches f s (s.clearBusy f) :=
  (State.touches_setTake s f _).trans (State.touches_freeEnded _ f)

theorem State.touches_endBrowse (r : BrowseEnd) : State.Touches f s (s.endBrowse f r) := by
  unfold State.endBrowse; split
  · exact (State.touches_setTake s f _).trans (State.touches_freeEnded _ f)
  · exact .refl f s

theorem State.touches_emptySources : State.Touches f s (s.emptySources f) :=
  (State.touches_setTake s f _).trans (State.touches_dropCells _ f _)

theorem State.touches_discardWindow : State.Touches f s (s.discardWindow f) :=
  (State.touches_setWindow s f _).trans (State.touches_dropCells _ f _)

/-! ## Ends of a take (R86 to R90, R143) -/

theorem State.touches_withdraw : State.Touches f s (s.withdraw f) := by
  unfold State.withdraw
  dsimp only
  split
  · refine State.Touches.trans ?_ (State.touches_dropCells _ f _)
    exact State.touches_store s f rfl rfl rfl
  · refine State.Touches.trans ?_ (State.touches_clearBusy _ f)
    refine State.Touches.trans ?_ (State.touches_setTake _ f _)
    refine State.Touches.trans ?_ (State.touches_dropCells _ f _)
    exact State.touches_store s f rfl rfl rfl

theorem State.touches_endTake (st : TakeState) : State.Touches f s (s.endTake f st) :=
  ((State.touches_setTake s f _).trans (State.touches_emptySources _ f)).trans (State.touches_raiseFeed _ f f _)

theorem State.touches_closeCheck : State.Touches f s (s.closeCheck f) := by
  unfold State.closeCheck; dsimp only; split
  · exact State.touches_endTake s f _
  · exact .refl f s

theorem State.touches_abortCheck : State.Touches f s (s.abortCheck f) := by
  unfold State.abortCheck; split
  · exact State.touches_endTake s f _
  · exact .refl f s

theorem State.touches_finishChecks : State.Touches f s (s.finishChecks f) :=
  (State.touches_closeCheck s f).trans (State.touches_abortCheck _ f)

theorem State.touches_dropOwed : State.Touches f s (s.dropOwed f) := State.touches_setTake s f _

theorem State.touches_enterFaulted (c : EndCause) : State.Touches f s (s.enterFaulted f c) :=
  (((((State.touches_setTake s f _).trans (State.touches_withdraw _ f)).trans
    (State.touches_discardWindow _ f)).trans (State.touches_dropOwed _ f)).trans
    (State.touches_endTake _ f _)).trans (State.touches_endBrowse _ f _)

theorem State.touches_enterAborting : State.Touches f s (s.enterAborting f) :=
  (((((State.touches_setTake s f _).trans (State.touches_withdraw _ f)).trans
    (State.touches_discardWindow _ f)).trans (State.touches_dropOwed _ f)).trans
    (State.touches_endBrowse _ f _)).trans (State.touches_abortCheck _ f)

theorem State.touches_failTake (c : EndCause) : State.Touches f s (s.failTake f c) := by
  unfold State.failTake; split
  · exact State.touches_enterFaulted s f c
  · exact .refl f s

/-! ## Snapshots (R93 to R98) -/

theorem State.touches_startTimer : State.Touches f s (s.startTimer f) := by
  unfold State.startTimer; dsimp only; split
  · exact .refl f s
  · exact State.touches_setTake s f _

theorem State.touches_oweSnapshot (w : WhichPage) : State.Touches f s (s.oweSnapshot f w) :=
  (State.touches_setTake s f _).trans (State.touches_startTimer _ f)

theorem State.touches_autoclear : State.Touches f s (s.autoclear f) :=
  State.touches_setHealth s f (Health.autoclears_sameSettings _)

theorem State.touches_snapshot (w : WhichPage) : State.Touches f s (s.snapshot f w).2 := by
  unfold State.snapshot
  dsimp only
  split
  · exact .refl f s
  · split
    · refine State.Touches.trans ?_ (State.touches_closeCheck _ f)
      refine State.Touches.trans ?_ (State.touches_autoclear _ f)
      refine State.Touches.trans ?_ (State.touches_setTake _ f _)
      exact State.touches_cells_store s f rfl rfl rfl
    · split
      · exact State.touches_oweSnapshot s f w
      · split
        · exact State.touches_oweSnapshot s f w
        · refine State.Touches.trans ?_ (State.touches_closeCheck _ f)
          refine State.Touches.trans ?_ (State.touches_join _ f _)
          refine State.Touches.trans ?_ (State.touches_autoclear _ f)
          exact (State.touches_cells s f _).trans (State.touches_setTake _ f _)

theorem State.touches_retryOwed : State.Touches f s (s.retryOwed f) := by
  unfold State.retryOwed
  dsimp only
  split <;> split
  · exact (State.touches_snapshot s f _).trans (State.touches_snapshot _ f _)
  · exact State.touches_snapshot s f _
  · exact State.touches_snapshot s f _
  · exact .refl f s

theorem State.touches_timerTrigger : State.Touches f s (s.timerTrigger f) := by
  unfold State.timerTrigger
  dsimp only
  split
  · split <;> split
    · exact (State.touches_snapshot s f _).trans (State.touches_snapshot _ f _)
    · exact State.touches_snapshot s f _
    · exact State.touches_snapshot s f _
    · exact .refl f s
  · exact .refl f s

theorem State.touches_enterDraining (c : EndCause) : State.Touches f s (s.enterDraining f c) := by
  have h : State.Touches f s (((s.setTake f { s.take f with
      state := .draining, endCause := some c, timer := none
      page := { (s.take f).page with finalPage := some (s.take f).page.openPage } }).endBrowse f .takeEnded).snapshot f
        .opened).2 :=
    ((State.touches_setTake s f _).trans (State.touches_endBrowse _ f _)).trans (State.touches_snapshot _ f _)
  unfold State.enterDraining
  dsimp only
  split
  · exact h.trans (State.touches_snapshot _ f _)
  · exact h

theorem State.touches_afterJoin : State.Touches f s (s.afterJoin f) := by
  unfold State.afterJoin
  dsimp only
  refine State.Touches.trans ?_ (State.touches_startTimer _ f)
  refine State.Touches.trans ?_ (State.touches_retryOwed _ f)
  split
  · exact State.touches_snapshot s f _
  · exact .refl f s

theorem State.touches_joinEntry (e : IndexEntry) : State.Touches f s (s.joinEntry f e) := by
  unfold State.joinEntry
  dsimp only
  split
  · exact (State.touches_setTake s f _).trans (State.touches_afterJoin _ f)
  · have h : State.Touches f s (if (s.take f).page.owed = true then s.retryOwed f else s) := by
      split
      · exact State.touches_retryOwed s f
      · exact .refl f s
    generalize (if (s.take f).page.owed = true then s.retryOwed f else s) = s1 at h ⊢
    split
    · exact (h.trans (State.touches_setTake _ f _)).trans (State.touches_afterJoin _ f)
    · split
      · exact (h.trans (State.touches_setTake _ f _)).trans (State.touches_afterJoin _ f)
      · exact ((h.trans (State.touches_setTake _ f _)).trans (State.touches_enterFaulted _ f _)).trans
          (State.touches_arbitrate _ f)

theorem State.touches_publishFrontier : State.Touches f s (s.publishFrontier f) := by
  unfold State.publishFrontier
  dsimp only
  split
  · exact (State.touches_setTake s f _).trans (State.touches_raiseFeed _ f f _)
  · exact State.touches_setTake s f _

end Sys2Proof.Machine
end

