-- ==== Sys2Proof/Laws/Window.lean ====
section
/-! SUPPORT. How far a release, a composition, a placement and the telling of an owner reach: one feed (see
Laws/Takes.lean). -/

namespace Sys2Proof.Machine

variable (s : State) (f : FeedNo)

/-! ## Browse builds (R112 to R124) -/

theorem State.touches_countSkip : State.Touches f s (s.countSkip f) :=
  State.touches_setFeed s f rfl rfl (Health.sameSettings_refl _)

theorem State.touches_buildBrowse (r : Raster) (slices : List BuildSlice) (k sub fil : Nat) :
    State.Touches f s (s.buildBrowse f r slices k sub fil).2 := by
  unfold State.buildBrowse
  dsimp only
  split
  · exact State.touches_endBrowse s f _
  · exact (State.touches_setTake s f _).trans (State.touches_countSkip _ f)
  · exact (State.touches_setTake s f _).trans (State.touches_countSkip _ f)
  · refine State.Touches.trans ?_ (State.touches_join _ f _)
    refine State.Touches.trans ?_ (State.touches_setTake _ f _)
    exact State.touches_pool s f _

theorem State.touches_askBrowse (p : Plan) (k : Nat) : State.Touches f s (s.askBrowse f p k).2 := by
  unfold State.askBrowse
  split
  · exact State.touches_buildBrowse s f _ _ _ _ _
  · exact .refl f s

/-! ## Compositions (R58 to R75) -/

theorem State.touches_areaFull (r : Released) (c : EndCause) : State.Touches f s (s.areaFull f r c) := by
  unfold State.areaFull
  exact ((State.touches_dropCells s f _).trans (State.touches_enterDraining _ f _)).trans
    (State.touches_discardWindow _ f)

theorem State.touches_commitRepeat (r : Released) (c : LostCause) : State.Touches f s (s.commitRepeat f r c) := by
  unfold State.commitRepeat
  dsimp only
  refine State.Touches.trans ?_ (State.touches_joinEntry _ f _)
  refine State.Touches.trans ?_ (State.touches_dropCells _ f _)
  exact State.touches_setFeed s f rfl rfl (Health.sameSettings_refl _)

theorem State.touches_commitPlan (r : Released) (p : Plan) (cell : Nat) :
    State.Touches f s (s.commitPlan f r p cell) := by
  unfold State.commitPlan
  dsimp only
  refine State.Touches.trans (State.touches_cells s f _) (State.touches_setFeed _ f rfl rfl (Health.sameSettings_refl _))

theorem State.touches_commitRecorded (r : Released) (p : Plan) (cell : Nat) :
    State.Touches f s (s.commitRecorded f r p cell) := by
  unfold State.commitRecorded
  dsimp only
  refine State.Touches.trans ?_ (State.touches_joinEntry _ f _)
  refine State.Touches.trans ?_ (State.touches_join _ f _)
  refine State.Touches.trans ?_ (State.touches_setTake _ f _)
  exact (State.touches_commitPlan s f r p cell).trans (State.touches_askBrowse _ f p _)

theorem State.touches_compose (r : Released) : State.Touches f s (s.compose f r) := by
  unfold State.compose
  dsimp only
  split
  · split
    · exact State.touches_commitRepeat s f r _
    · exact State.touches_areaFull s f r _
  · split
    · exact State.touches_areaFull s f r _
    · split
      · exact State.touches_areaFull s f r _
      · split
        · exact State.touches_commitRepeat s f r _
        · split
          · exact State.touches_commitRepeat s f r _
          · exact (State.touches_cells s f _).trans (State.touches_commitRecorded _ f r _ _)

/-! ## Releases (R26 to R31, R36) -/

theorem State.touches_releaseBase : State.Touches f s (s.releaseBase f) := by
  unfold State.releaseBase
  dsimp only
  split
  · exact .refl f s
  · exact (State.touches_setWindow s f _).trans (State.touches_compose _ f _)

theorem State.touches_chainN (n : Nat) : State.Touches f s (chainN n f s) := by
  induction n generalizing s with
  | zero => exact .refl f s
  | succ n ih =>
    rw [chainN]
    split
    · exact (State.touches_releaseBase s f).trans (ih _)
    · exact .refl f s

theorem State.touches_chain : State.Touches f s (s.chain f) := State.touches_chainN s f _

theorem State.touches_flushN (n : Nat) : State.Touches f s (flushN n f s) := by
  induction n generalizing s with
  | zero => exact .refl f s
  | succ n ih =>
    rw [flushN]
    split
    · exact (State.touches_releaseBase s f).trans (ih _)
    · exact .refl f s

theorem State.touches_flush : State.Touches f s (s.flush f) := State.touches_flushN s f _

theorem State.touches_overrunN (n : Nat) (x : Half) : State.Touches f s (overrunN n f x s) := by
  induction n generalizing s with
  | zero => exact .refl f s
  | succ n ih =>
    rw [overrunN]
    split
    · exact .refl f s
    · split
      · exact ((State.touches_releaseBase s f).trans (State.touches_chain _ f)).trans (ih _)
      · exact .refl f s

/-! ## Fragments (R18 to R33) -/

theorem State.touches_startRecording : State.Touches f s (s.startRecording f) := by
  unfold State.startRecording; split
  · exact State.touches_setTake s f _
  · exact .refl f s

theorem State.touches_afterPlacement : State.Touches f s (s.afterPlacement f) := by
  unfold State.afterPlacement; dsimp only
  split
  · split
    · exact State.touches_chain s f
    · exact .refl f s
  · exact .refl f s

theorem State.touches_place (x : Fragment) : State.Touches f s (s.place f x) := by
  have placed : ∀ (m : CellMem) (w : Window), State.Touches f s
      (((({ s with cells := m } : State).setWindow f w).startRecording f).afterPlacement f) := fun m w =>
    (((State.touches_cells s f m).trans (State.touches_setWindow _ f w)).trans
      (State.touches_startRecording _ f)).trans (State.touches_afterPlacement _ f)
  unfold State.place
  dsimp only
  split
  · split
    · exact State.touches_setWindow s f _
    · split
      · exact State.touches_setWindow s f _
      · exact placed _ _
  · split
    · exact State.touches_setWindow s f _
    · exact placed _ _

theorem State.touches_takeFragment (x : Fragment) : State.Touches f s (s.takeFragment f x) := by
  unfold State.takeFragment
  split
  · exact State.touches_place s f x
  · split
    · exact State.touches_place s f x
    · unfold State.overrun
      dsimp only
      rename_i b _ _ _
      have h := State.touches_overrunN s f (distance b x.frame) x.frame
      split
      · exact (h.trans (State.touches_setWindow _ f _)).trans (State.touches_place _ f x)
      · exact h.trans (State.touches_setWindow _ f _)
    · unfold State.discontinuity
      dsimp only
      have h := State.touches_flush s f
      split
      · exact (h.trans (State.touches_setWindow _ f _)).trans (State.touches_place _ f x)
      · exact h.trans (State.touches_setWindow _ f _)
    · exact State.touches_setWindow s f _

/-! ## Telling an owner (R137 to R140) -/

theorem State.touches_onBrowseTotals (g : BrowseTotals → BrowseTotals) :
    State.Touches f s (s.onBrowseTotals f g) := State.touches_setTake s f _

theorem State.touches_tellOk (r : Request) : State.Touches r.take s (s.tellOk r) := by
  unfold State.tellOk
  dsimp only
  refine State.Touches.trans ?_ (State.touches_finishChecks _ _)
  refine State.Touches.trans ?_ (State.touches_publishFrontier _ _)
  split
  · exact State.touches_setTake s _ _
  · exact (State.touches_setTake s _ _).trans (State.touches_setTake _ _ _)
  · exact (State.touches_onBrowseTotals s _ _).trans (State.touches_clearBusy _ _)

theorem State.touches_tellFailed (r : Request) : State.Touches r.take s (s.tellFailed r) := by
  unfold State.tellFailed
  dsimp only
  refine State.Touches.trans ?_ (State.touches_finishChecks _ _)
  refine State.Touches.trans ?_ (State.touches_publishFrontier _ _)
  split
  · exact State.touches_failTake s _ _
  · exact State.touches_failTake s _ _
  · exact (State.touches_onBrowseTotals s _ _).trans (State.touches_clearBusy _ _)

theorem State.touches_tellTimeout (r : Request) : State.Touches r.take s (s.tellTimeout r) := by
  unfold State.tellTimeout
  dsimp only
  refine State.Touches.trans ?_ (State.touches_finishChecks _ _)
  refine State.Touches.trans ?_ (State.touches_publishFrontier _ _)
  split
  · exact State.touches_failTake s _ _
  · exact State.touches_failTake s _ _
  · exact State.touches_onBrowseTotals s _ _

theorem State.touches_tellLate (r : Request) : State.Touches r.take s (s.tellLate r) := by
  unfold State.tellLate
  split
  · exact State.touches_clearBusy s _
  · exact .refl _ s

end Sys2Proof.Machine
end

