-- ==== Sys2Proof/Tests/Slice0.lean ====
section
/-! SUPPORT. Our own tests: the WellFormed smoke, small checks against the manual's figures, and for every statement with
hypotheses concrete states and operands that meet them together. -/

namespace Sys2Proof.Tests
open Sys2Proof.Machine
set_option Elab.async false

/-! ## Builders -/

/-- A next state meets `p`. -/
def after (o : Host.Outcome State Fault Refusal) (p : State → Bool) : Bool :=
  match o with
  | .next s => p s
  | _ => false

/-- A part whose start-up and settling have ended. -/
def base : State :=
  { State.reset with
    settings := { State.reset.settings with started := true }
    store := { State.reset.store with settling := .ended } }

/-- The 128 bytes of a request. -/
def request (code : Byte) (body : Bytes) : Bytes := fitTo 0 128 ([code] ++ be1 body.length ++ body)

/-- `s` with a request in processing. -/
def asking (code : Byte) (body : Bytes) (s : State) : State :=
  { s with link := { s.link with processing := some (request code body) } }

/-- `s` with feed `f`'s take changed. -/
def onTake (f : FeedNo) (g : Take → Take) (s : State) : State := s.setTake f (g (s.take f))

/-- `s` with feed `f`'s take in a state. -/
def inState (f : FeedNo) (st : TakeState) (s : State) : State := onTake f (fun t => { t with state := st }) s

/-- Feed 2 enabled with stream tag 7 and path 0. -/
def fed : State :=
  base.setFeed 2 { base.feed 2 with entry := { tag := 7, enable := true, paths := 1, depth := 20, jump := 1024,
                                               publish := 40 } }

/-- Feed 2 enabled, its take ARMED with areas of 8,192 bytes. -/
def armed : State :=
  onTake 2 (fun t => { t with state := .armed, essence := ⟨0, 8192⟩, index := ⟨8192, 8192⟩,
                              comp := { t.comp with raster := some .r720 } }) fed

/-- Feed 2's take RECORDING with no record and base 10. -/
def recording : State :=
  (inState 2 .recording armed).setWindow 2 { armed.window 2 with base := some 10 }

/-- A record with one held fragment. -/
def rec1 (frame : Half) (index : Nat) : FrameRecord :=
  { frame := frame, declared := 3, held := [{ index := index, offset := 5, length := 5, cell := 9 }], first := 0,
    deadline := 20000 }

/-- Feed 2's take RECORDING with a record of frame 10 that holds fragment 1. -/
def holding : State :=
  recording.setWindow 2 { recording.window 2 with records := [rec1 10 1] }

/-- An issued request of feed 2 in epoch 0. -/
def bound (s : Subject) (h : List Nat) : Issued :=
  { request := { take := 2, subject := s, address := 0, length := 512, holdings := h }, epoch := 0, issued := 0,
    deadline := 100 }

/-- `s` with tag 3 of lane 1 holding `v`. -/
def withTag (v : Tag) (s : State) : State := { s with store := s.store.setTag 1 3 v }

/-- A field packet's bytes (R190): path 0, stream tag 7, sequence 1. -/
def packetBytes (frame : Half) (index count offset : Nat) (payload : Bytes) : Bytes :=
  be2 0xA5C3 ++ be1 1 ++ be1 0 ++ be4 7 ++ be2 1 ++ be2 frame.toNat ++ be2 index ++ be2 count ++ be4 offset ++ payload

/-- The fragment of such a packet. -/
def packetOf (frame : Half) (index count offset : Nat) (payload : Bytes) : Packet :=
  { path := 0, tag := 7, seq := 1, frame := frame, index := index, count := count, offset := offset,
    payload := payload }

/-- An Ethernet frame to UDP port 5,400 that carries `u` (R1): IPv4 header of 20 bytes with its checksum written
out, UDP checksum 0. -/
def ethernet (sum : Bytes) (u : Bytes) : Bytes :=
  let body := zeroBytes 12 ++ [8, 0] ++ [0x45, 0] ++ be2 (u.length + 28) ++ zeroBytes 4 ++ [64, 17] ++ sum ++
    [192, 168, 1, 1, 192, 168, 1, 2] ++ be2 1000 ++ be2 5400 ++ be2 (u.length + 8) ++ be2 0 ++ u
  body ++ frameCheck body

/-! ## WellFormed refuses -/

theorem test_refuses_time_of_65_bits : Instr.wellFormed (.hello (2 ^ 64)) = false := by decide
theorem test_takes_time_of_64_bits : Instr.wellFormed (.hello (2 ^ 64 - 1)) = true := by decide
theorem test_refuses_exchange_bytes_short : Instr.wellFormed (.spiExchange 0 9 [1]) = false := by decide
theorem test_takes_exchange_of_9_bits : Instr.wellFormed (.spiExchange 0 9 [1, 2]) = true := by decide
theorem test_refuses_empty_frame : Instr.wellFormed (.ethernetFrame 0 []) = false := by decide
theorem test_refuses_long_region :
    Instr.wellFormed (.regionWrite 0 true (some (List.replicate 1025 0))) = false := by decide +kernel

/-! ## No table word spells a command -/

theorem test_no_word_spells : decodeTableWord 32 0x20 = none := rfl
theorem test_withFetchWord_keeps : State.reset.withFetchWord 32 0x20 = State.reset := rfl

/-! ## Figures of the manual -/

/-- Log entry 10: the check value of the published CRC-32, of the nine characters 1 to 9, is 0xCBF43926. -/
theorem test_frame_check : frameCheck [0x31, 0x32, 0x33, 0x34, 0x35, 0x36, 0x37, 0x38, 0x39] = [0x26, 0x39, 0xF4, 0xCB] := by
  decide +kernel

/-- R116's worked macroblock: weight 4, DC values 100, -37, 2047, -2048, 3, -1. -/
theorem test_dc_samples :
    [100, -37, 2047, -2048, 3, -1].map (fun (n : Int) => dcSample 4 (BitVec.ofInt 16 n)) = [178, 110, 255, 0, 130, 128] := by
  decide +kernel

/-- R117's worked groups: 136 of four luma samples, and 131 of a last chroma row taken twice. -/
theorem test_sixteenth : halvePlane [[178, 110], [255, 0]] = [[136]] ∧ halvePlane [[130, 131]] = [[131]] := by decide

/-- R107's table: pixel bytes, slot bytes and contexts of the largest slot (raster 3, EIGHTH). -/
theorem test_slot_of_raster_3 :
    pixelBytes .r2160 .eighth = 194400 ∧ slotBytes .r2160 .eighth % 512 = 0 ∧ contextsNeeded .r2160 .eighth = 4 := by
  decide

/-- R100's pages landing out of order: page 4 with 20 entries waits behind 240; page 3 with 63 then covers 272. -/
theorem test_cover_out_of_order :
    cover 240 [] 4 20 = (240, [(4, 20)]) ∧ cover 240 [(4, 20)] 3 63 = (272, []) := by decide

/-- R182's worked check word: words that sum to 0x00032A10 take 0xFFFCD5F0. -/
theorem test_check_word : (0 : Word) - 0x00032A10 = 0xFFFCD5F0 := by decide

/-- R11's worked figures: 40 expected and 32 received lose 200 per mille. -/
theorem test_loss : { PathAcc.reset with intReceived := 32, intExpected := 40 }.loss = 200 := by decide

/-- R30's worked distances: frame 38 lies 40 from base 65,534; frame 65,530 lies 65,532 from it. -/
theorem test_distance : distance 65534 38 = 40 ∧ distance 65534 65530 = 65532 := by decide

/-- R13's worked guard, third row: paths 0, 1 and 3 are candidates, and path 0 passes. -/
def silent (ps : List Nat) : Health :=
  { Health.reset with conds := Vector.ofFn fun (i : Fin 17) => { Condition.default i.val with
      select := .dynamic, dynamic := ps.any (fun p => p + 4 == i.val)
      actions := { (Condition.default i.val).actions with drop := decide (i.val < 8) } } }

theorem test_guard : [0, 1, 3].map (pathDropped { FeedEntry.reset with paths := 0b1011 } (silent [0, 1, 3])) =
    [false, true, true] := by decide +kernel
theorem test_guard_lapses : [0, 1, 3].map (pathDropped { FeedEntry.reset with paths := 0b1011 } (silent [0, 3])) =
    [true, false, true] := by decide +kernel

/-- R3: the magic, the version, a fragment index at the declared count, fragment 0 not at offset 0. -/
theorem test_packet_accepted : parsePacket (packetBytes 10 0 3 0 [1]) = some (packetOf 10 0 3 0 [1]) := by decide +kernel
theorem test_packet_malformed :
    parsePacket (packetBytes 10 3 3 0 [1]) = none ∧ parsePacket (packetBytes 10 0 3 1 [1]) = none ∧
    parsePacket (packetBytes 10 0 3 0 []) = none := by decide +kernel

/-! ## Single steps -/

theorem test_power_on : after (exec (.powerOn none) fed) (fun s => (s.feed 2).entry == FeedEntry.reset) = true := by
  decide +kernel
theorem test_reset_line_cut :
    after (exec (.resetLine (some ⟨16, 8⟩)) base) (fun s => s.out.miso == [0x00, 0x42, 0x00]) = true := by decide +kernel
theorem test_reset_cause :
    after (exec (.reset 5 none) (asking 0x7F [] base)) (fun s => s.settings.cause == .resetRequest && s.time == 0) = true := by
  decide +kernel
theorem test_region_read_after_start :
    after (exec (.regionRead 5 true) base) (fun s => s.settings == base.settings) = true := by decide +kernel
theorem test_tick : after (step base) (fun s => s.time == 1) = true := by decide +kernel
theorem test_exchange_judges_hello :
    after (exec (.spiExchange 1 1024 (request 0x01 [])) base) (fun s => !s.ready) = true := by decide +kernel
theorem test_code_0_without_parts :
    after (exec (.spiExchange 1 1024 (request 0 [])) base)
      (fun s => s.ready && s.link.reply.outcome == .unknownRequest) = true := by decide +kernel
theorem test_set_feed_clamps :
    after (exec (.setFeed 1) (asking 0x10 ([3] ++ be4 9 ++ [1, 1] ++ be2 19 ++ be2 1025 ++ be2 2001) base))
      (fun s => s.link.reply.clamped && (s.feed 3).entry.depth == 20 && (s.feed 3).entry.jump == 1024 &&
        (s.feed 3).entry.publish == 2000) = true := by decide +kernel
theorem test_read_conditions_parts :
    after (exec (.readConditions 1) (asking 0x32 [2] base))
      (fun s => s.link.reply.more && s.link.parts.length == 1) = true := by decide +kernel
theorem test_interval_end : after (exec (.intervalEnd 100000) base) (fun s => s.monitor.nextEnd == 200000) = true := by
  decide +kernel
theorem test_read_notices_masks :
    after (exec (.readNotices 1) (asking 0x40 [] base)) (fun s => s.link.reply.body.length == 66) = true := by
  decide +kernel
theorem test_store_status_length :
    after (exec (.storeStatus 1) (asking 0x51 [] base)) (fun s => s.link.reply.more) = true := by decide +kernel
theorem test_timeout_stalls_lane :
    after (exec (.storeTimeout 100 1 3)
      { base with store := { base.store with
          lanes := base.store.lanes.set 1 { Lane.reset with
            tags := (Vector.replicate 8 (Tag.quarantined (bound (.essence 0 []) []))).set 3
              (.inFlight (bound (.browse 0 0) [])) } } })
      (fun s => s.storeStalled && s.link.pending.device == 0b1000) = true := by decide +kernel

/-! ## Witnesses: the step, the resets, the settings store -/

theorem witness_StepRunsFrontCommand :
    { base with pending := [.hello 5, .nextPart 6] }.pending = .hello 5 :: [.nextPart 6] := rfl

theorem witness_restarts :
    restarts (.powerOn none) base = some .powerOn ∧ restarts (.resetLine none) base = some .resetLine ∧
    restarts (.reset 0 none) (asking 0x7F [] base) = some .resetRequest := by decide +kernel

/-- A save that stands at a step of a region, its images of the regions' lengths. -/
def saving (r : Region) (step : Fin 3) (verified : Bool) : Save :=
  { feeds := List.replicate 256 1, monitor := List.replicate 1024 2, store := List.replicate 64 3, region := r,
    step := step, verified := verified }

/-- A part with such a save in flight. -/
def busy (r : Region) (step : Fin 3) (verified : Bool) : State :=
  { base with settings := { base.settings with save := some (saving r step verified) } }

theorem witness_ResetDuringSave (r : Region) (step : Fin 3) :
    restarts (.resetLine none) (busy r step true) = some .resetLine ∧
    (busy r step true).settings.save = some (saving r step true) ∧
    Memory.wf flashByte (busy r step true).settings.flash ∧
    (saving r step true).image.length = (saving r step true).region.length := by
  refine ⟨rfl, rfl, ⟨List.Pairwise.nil, by simp [busy, base, State.reset, State.afterReset, SettingsStore.reset]⟩, ?_⟩
  cases r <;> exact List.length_replicate

/-- A flash that holds what a save of these settings would write. -/
def savedFlash : List Host.Cell :=
  Memory.write flashByte (Memory.write flashByte (Memory.write flashByte [] 0 (Region.feeds.image fed.feedsSettings)) 4096
    (Region.monitor.image fed.monitorSettings)) 8192 (Region.store.image fed.store.settings.bytes)

/-- Each region first, silent and answering, passed and not. -/
theorem witness_RegionRead :
    State.reset.settings.started = false ∧ State.reset.settings.feeds = .notRead ∧
    parseFeeds (Region.feeds.read State.reset.settings.flash true) = none ∧
    parseFeeds (Region.feeds.read savedFlash false) = none ∧ (parseFeeds (Region.feeds.read savedFlash true)).isSome = true ∧
    parseMonitorRegion (Region.monitor.read [] true) = none ∧
    (parseMonitorRegion (Region.monitor.read savedFlash true)).isSome = true ∧
    parseStoreRegion (Region.store.read [] true) = none ∧
    (parseStoreRegion (Region.store.read savedFlash true)).isSome = true := by decide +kernel

theorem witness_RegionReadOrder :
    (∃ s : State, s.settings.started = false ∧ s.settings.feeds ≠ .notRead ∧ s.settings.monitor = .notRead) ∧
    ∃ s : State, s.settings.started = false ∧ s.settings.feeds ≠ .notRead ∧ s.settings.monitor ≠ .notRead :=
  ⟨⟨{ State.reset with settings := { State.reset.settings with feeds := .loaded } }, rfl, nofun, rfl⟩,
    ⟨{ State.reset with settings := { State.reset.settings with feeds := .loaded, monitor := .defaulted } }, rfl, nofun,
      nofun⟩⟩

theorem fed_feed (f : FeedNo) (h : f ≠ 2) : fed.feed f = Feed.reset := by
  revert f; decide +kernel

theorem reset_health_sound : Health.reset.settingsSound := by
  refine ⟨by decide, by decide, by decide, by decide, by decide, by decide, ?_⟩
  decide +kernel

theorem fed_settingsSound : fed.settingsSound := by
  have hh : ∀ f, fed.health f = Health.reset := by decide +kernel
  have he : (fed.feed 2).entry = { tag := 7, enable := true, paths := 1, depth := 20, jump := 1024, publish := 40 } := by
    decide +kernel
  refine ⟨fun f => ?_, fun f => ?_, ⟨by decide, by decide, by decide, by decide, by decide, by decide, by decide⟩,
    by decide, by decide, by decide, by decide, by decide, by decide, fun f g hfg hf hg => ?_⟩
  · by_cases h : f = 2
    · subst h; rw [he]; exact ⟨by decide, by decide, by decide, by decide, by decide, fun _ => by decide⟩
    · rw [fed_feed f h]; exact ⟨by decide, by decide, by decide, by decide, by decide, fun _ => by decide⟩
  · rw [hh f]; exact reset_health_sound
  · by_cases h : f = 2
    · have hg2 : g ≠ 2 := fun hg2 => hfg (h.trans hg2.symm)
      rw [fed_feed g hg2] at hg; cases hg
    · rw [fed_feed f h] at hf; cases hf

theorem witness_SavedRegionsLoadBack : ∃ s : State, s.settingsSound := ⟨fed, fed_settingsSound⟩

theorem witness_SaveSettings :
    (asking 0x60 [] base).dispatches 0x60 [] = true ∧ (asking 0x60 [] base).settings.save = none ∧
    (asking 0x60 [] (busy .feeds 0 true)).dispatches 0x60 [] = true ∧
    (asking 0x60 [] (busy .feeds 0 true)).settings.save ≠ none := by decide +kernel

/-- With nothing said of what the flash holds, and with other bytes of the region's length. -/
theorem witness_RegionWrite (r : Region) (b : Bool) :
    (busy r 0 b).settings.save = some (saving r 0 b) ∧ Memory.wf flashByte (busy r 0 b).settings.flash ∧
    (saving r 0 b).image.length = (saving r 0 b).region.length ∧
    (List.replicate r.length (9 : Byte)).length = (saving r 0 b).region.length := by
  refine ⟨rfl, ⟨List.Pairwise.nil, by simp [busy, base, State.reset, State.afterReset, SettingsStore.reset]⟩, ?_, ?_⟩
  · cases r <;> exact List.length_replicate
  · cases r <;> exact List.length_replicate

/-! ## Witnesses: the control link -/

theorem witness_EarlyAndShort :
    (asking 0x01 [] base).link.processing = some (request 0x01 []) ∧ base.link.processing = none ∧
    (1023 : Nat) ≠ 1024 ∧ (1025 : Nat) ≠ 1024 ∧ (0 : Nat) ≠ 1024 := by decide +kernel

/-- HELLO before STARTED, and after it ARM TAKE of the longest body. -/
theorem witness_TakenExchange :
    (State.reset.link.processing = none ∧ (request 0x01 []).length = 128 ∧ requestCode (request 0x01 []) = 0x01 ∧
      requestLength (request 0x01 []) ≤ 126 ∧ bodyFits 0x01 (requestLength (request 0x01 [])) = some true) ∧
    base.link.processing = none ∧ base.settings.started = true ∧ (request 0x20 (zeroBytes 61)).length = 128 ∧
      requestCode (request 0x20 (zeroBytes 61)) ≠ 0 ∧ requestLength (request 0x20 (zeroBytes 61)) ≤ 126 ∧
      bodyFits (requestCode (request 0x20 (zeroBytes 61))) (requestLength (request 0x20 (zeroBytes 61))) = some true := by
  decide +kernel

/-- Code 0x00 with a part held. -/
def partHeld : State := { base with link := { base.link with parts := [Reply.done 0x32 false []] } }

theorem witness_TakenPart :
    partHeld.link.processing = none ∧ (request 0 []).length = 128 ∧ requestCode (request 0 []) = 0 ∧
    partHeld.settings.started = true ∧ partHeld.link.parts ≠ [] := by decide +kernel

/-- NOT_STARTED, UNKNOWN_REQUEST, and BAD_ARGUMENT for a length 1 too large and for one of 127. -/
theorem witness_Undispatched :
    (State.reset.link.processing = none ∧ State.reset.settings.started = false ∧
      requestCode (request 0x02 []) ≠ 0x01) ∧
    (requestCode (request 0 []) = 0 ∧ bodyFits 0 0 = none ∧ base.link.parts = []) ∧
    (base.settings.started = true ∧ (request 0x02 []).length = 128 ∧ bodyFits 0x02 0 = none) ∧
    bodyFits (requestCode (request 0x11 [0, 0])) (requestLength (request 0x11 [0, 0])) = some false ∧
    126 < requestLength (fitTo 0 128 [0x11, 127]) ∧ (fitTo 0 128 [(0x11 : Byte), 127]).length = 128 ∧
    bodyFits 0x11 127 ≠ none := by decide +kernel

theorem witness_ReplyParts :
    (Answer.done []).body.length ≤ 1952 ∧ (Answer.done (zeroBytes 122)).body.length ≤ 1952 ∧
    (Answer.done (zeroBytes 1952)).body.length ≤ 1952 ∧
    ∃ (s : State) (r : Reply), s.link.processing = some (request 0 []) ∧ requestCode (request 0 []) = 0 ∧
      s.settings.started = true ∧ s.link.parts = [r] :=
  ⟨by decide, by decide +kernel, by decide +kernel,
    { asking 0 [] base with link := { (asking 0 [] base).link with parts := [Reply.done 0x32 false []] } },
    Reply.done 0x32 false [], rfl, by decide +kernel, rfl, rfl⟩

/-- An answer of 123 bytes comes in two parts. -/
theorem test_two_parts :
    (base.answer 0x51 (.done (zeroBytes 123))).link.reply.body.length = 122 ∧
    (base.answer 0x51 (.done (zeroBytes 123))).link.reply.more = true ∧
    (base.answer 0x51 (.done (zeroBytes 123))).link.parts = [Reply.done 0x51 false [0]] := by decide +kernel

theorem witness_Hello :
    (asking 0x01 [] base).dispatches 0x01 [] = true ∧ (asking 0x01 [] State.reset).dispatches 0x01 [] = true ∧
    State.reset.link.processing = none ∧ (request 0x01 []).length = 128 ∧ requestCode (request 0x01 []) = 0x01 ∧
    requestLength (request 0x01 []) = 0 := by
  decide +kernel

/-- R171, R180: the exchange that takes a HELLO clears RESET_SEEN, and one that takes a refused request keeps it. -/
theorem test_hello_dispatch_clears_reset_seen :
    after (exec (.spiExchange 1 1024 (request 0x01 [])) State.reset) (fun s => !s.link.resetSeen && !s.ready) = true ∧
    after (exec (.spiExchange 1 1024 (request 0x12 [0])) State.reset) (fun s => s.link.resetSeen && s.ready) = true := by
  decide +kernel

/-- The first and the last feed, and the last section. -/
theorem witness_Reading :
    (asking 0x11 [0] base).dispatches 0x11 [0] = true ∧ (asking 0x12 [7] base).dispatches 0x12 [7] = true ∧
    (asking 0x24 [7, 2] base).dispatches 0x24 [7, 2] = true ∧ (asking 0x32 [7] base).dispatches 0x32 [7] = true ∧
    (asking 0x40 [] base).dispatches 0x40 [] = true ∧ (asking 0x51 [] base).dispatches 0x51 [] = true ∧
    ((reading (.readFeed 1) (base.start 1) [0]).map Prod.fst = some 0x11) ∧
    ((reading (.feedStatus 1) (base.start 1) [7]).map Prod.fst = some 0x12) ∧
    ((reading (.takeStatus 1) (base.start 1) [7, 2]).map Prod.fst = some 0x24) ∧
    ((reading (.readConditions 1) (base.start 1) [7]).map Prod.fst = some 0x32) ∧
    ((reading (.readNotices 1) (base.start 1) []).map Prod.fst = some 0x40) ∧
    ((reading (.storeStatus 1) (base.start 1) []).map Prod.fst = some 0x51) := by decide +kernel

/-- Feed 8 in each request that names a feed. -/
theorem witness_RefusedFeed :
    (asking 0x10 ([8] ++ zeroBytes 12) base).dispatches 0x10 ([8] ++ zeroBytes 12) = true ∧
    (asking 0x20 ([8] ++ zeroBytes 56) base).dispatches 0x20 ([8] ++ zeroBytes 56) = true ∧
    (([0x11, 0x12, 0x21, 0x22, 0x23, 0x25, 0x32] : List Byte).all fun c => (asking c [8] base).dispatches c [8]) = true ∧
    (asking 0x24 [8, 0] base).dispatches 0x24 [8, 0] = true ∧
    (asking 0x31 ([8] ++ zeroBytes 17) base).dispatches 0x31 ([8] ++ zeroBytes 17) = true ∧
    (asking 0x33 [8, 0, 0, 0, 0] base).dispatches 0x33 [8, 0, 0, 0, 0] = true ∧ 8 ≤ fieldNat [8] 0 1 := by
  decide +kernel

theorem witness_RefusedState :
    (([0x21, 0x22, 0x23, 0x25] : List Byte).all fun c => (asking c (be1 2) base).dispatches c (be1 2)) = true ∧
    (base.take 2).state = .idle ∧
    (asking 0x23 (be1 2) recording).dispatches 0x23 (be1 2) = true ∧ (recording.take 2).state = .recording ∧
    (asking 0x25 (be1 2) armed).dispatches 0x25 (be1 2) = true ∧ (armed.take 2).state = .armed := by decide +kernel

/-- Feed 7's highest notice, and the first bit that names none. -/
theorem witness_Notices :
    let b := zeroBytes 28 ++ be4 (2 ^ 18) ++ [8]
    let bad := zeroBytes 28 ++ be4 (2 ^ 19) ++ [0]
    (asking 0x40 [] base).dispatches 0x40 [] = true ∧ (asking 0x41 b base).dispatches 0x41 b = true ∧
    (asking 0x42 b base).dispatches 0x42 b = true ∧ (parseNotices b).isSome = true ∧ (asking 0x41 bad base).dispatches 0x41 bad = true ∧
    (asking 0x42 bad base).dispatches 0x42 bad = true ∧ parseNotices bad = none := by decide +kernel

/-! ## Witnesses: the feed table and intake -/

/-- SET FEED of feed 3: accepted with a line part, refused for a take, for a tag held by feed 2, for no path. -/
def setFeedBody (feed : Byte) (tag : Nat) (en paths : Byte) (line : Bytes) : Bytes :=
  [feed] ++ be4 tag ++ [en, paths] ++ be2 20 ++ be2 1024 ++ be2 2000 ++ line

theorem witness_SetFeed :
    let b := setFeedBody 3 8 1 8 (be4 0 ++ be2 65535)
    (asking 0x10 b fed).dispatches 0x10 b = true ∧ (parseSetFeed b).map (·.feed) = some 3 ∧
    (parseSetFeed b).map (·.line) = some (some (0, 65535)) ∧ (∀ g, (fed.take g).state = .idle) ∧
    ∀ g, g ≠ 3 → (fed.feed g).entry.enable = true → (fed.feed g).entry.tag ≠ 8 := by decide +kernel

theorem witness_SetFeedRefused :
    (parseSetFeed (setFeedBody 8 8 0 1 [])).map (·.feed) = some 8 ∧
    ((armed.take 2).state ≠ .idle ∧ (parseSetFeed (setFeedBody 2 8 0 1 [])).map (·.feed) = some 2) ∧
    ((parseSetFeed (setFeedBody 3 8 0 1 (be4 0 ++ be2 1))).map (·.line.isSome) = some true) ∧
    ((fed.take 3).state = .idle ∧ (parseSetFeed (setFeedBody 3 8 1 0 [])).map (·.entry.paths) = some 0) ∧
    (fed.feed 2).entry.enable = true ∧ (fed.feed 2).entry.tag = 7 ∧
    (parseSetFeed (setFeedBody 3 7 1 1 [])).map (·.entry.tag) = some 7 := by decide +kernel

/-- An enable byte of 2, and path bit 4. -/
theorem witness_SetFeedStructural :
    (asking 0x10 (setFeedBody 3 8 2 1 []) base).dispatches 0x10 (setFeedBody 3 8 2 1 []) = true ∧
    2 ≤ fieldNat (setFeedBody 3 8 2 1 []) 5 1 ∧ 16 ≤ fieldNat (setFeedBody 3 8 1 16 []) 6 1 ∧
    (asking 0x10 (setFeedBody 3 8 1 16 []) base).dispatches 0x10 (setFeedBody 3 8 1 16 []) = true := by decide +kernel

/-- The checksum of the IPv4 header of a datagram with 21 bytes of UDP payload. -/
def oneByte : Bytes := ethernet [0xF7, 0x68] (packetBytes 10 0 3 0 [1])

theorem witness_DiscardedFrames :
    State.reset.settings.started = false ∧
    judgeFrame fed.line.address fed.line.udpPort [1, 2, 3] = .corrupt ∧
    judgeFrame fed.line.address fed.line.udpPort (zeroBytes 14 ++ frameCheck (zeroBytes 14)) = .foreign ∧
    judgeFrame fed.line.address fed.line.udpPort oneByte = .accepted (packetBytes 10 0 3 0 [1]) ∧
    judgeFrame fed.line.address fed.line.udpPort (ethernet [0xF7, 0x7C] [1]) = .accepted [1] ∧ parsePacket [1] = none ∧
    parsePacket (packetBytes 10 0 3 0 [1]) = some (packetOf 10 0 3 0 [1]) ∧ base.feedOfTag 7 = none ∧
    fed.feedOfTag 7 = some 2 ∧ (fed.take 2).state ≠ .armed ∧ (fed.take 2).state ≠ .recording ∧
    (armed.take 2).state = .armed ∧
    ({ (armed.feed 2).entry with paths := 2 } : FeedEntry).pathEnabled (packetOf 10 0 3 0 [1]).path = false := by
  decide +kernel

/-- The boundary distances: 1, 32,767, 0 and 32,768. -/
theorem witness_PathAccounting :
    PathAcc.reset.last = none ∧ { PathAcc.reset with last := some 5 }.last = some 5 ∧ ((6 : Half) - 5).toNat = 1 ∧
    ((32772 : Half) - 5).toNat = 32767 ∧ ((5 : Half) - 5).toNat = 0 ∧ ((32773 : Half) - 5).toNat = 32768 := by decide

/-- Feed 2 with paths 0 and 1 enabled and path 0 silent with DROP. -/
def dropping : State :=
  armed.setFeed 2 { armed.feed 2 with entry := { (armed.feed 2).entry with paths := 3 }, health := silent [0] }

theorem witness_Dropped :
    dropping.reachesPath oneByte (packetOf 10 0 3 0 [1]) 2 ∧
    pathDropped (dropping.feed 2).entry (dropping.health 2) (packetOf 10 0 3 0 [1]).path = true :=
  ⟨⟨by decide +kernel, ⟨packetBytes 10 0 3 0 [1], by decide +kernel, by decide +kernel⟩, by decide +kernel,
    by decide +kernel, by decide +kernel⟩, by decide +kernel⟩

theorem witness_LastPathGuard :
    let e : FeedEntry := { FeedEntry.reset with paths := 0b1011 }
    e.paths ≠ 0 ∧ e.pathEnabled 0 = true ∧ (silent [0, 1, 3]).dropCandidate 0 = true ∧
    pathDropped e (silent [0, 1, 3]) 0 = false := by decide +kernel

/-! ## Witnesses: the window -/

theorem reaches (s : State) (frame : Bytes) (u : Bytes) (p : Packet) (h : s.settings.started = true)
    (h1 : judgeFrame s.line.address s.line.udpPort frame = .accepted u) (h2 : parsePacket u = some p)
    (h3 : s.feedOfTag p.tag = some 2) (h4 : (s.take 2).state = .armed ∨ (s.take 2).state = .recording)
    (h5 : (s.feed 2).entry.pathEnabled p.path = true) : s.reachesPath frame p 2 :=
  ⟨h, ⟨u, h1, h2⟩, h3, h4, h5⟩

/-- Feed 2's take RECORDING with a base that frame 10 lies exactly 49,152 from. -/
def late : State := recording.setWindow 2 { recording.window 2 with base := some (10 - 49152) }

theorem witness_LateFragment :
    late.reachesPath oneByte (packetOf 10 0 3 0 [1]) 2 ∧
    pathDropped (late.feed 2).entry (late.health 2) 0 = false ∧ (late.window 2).base = some (10 - 49152) ∧
    49152 ≤ distance (10 - 49152) 10 ∧ (late.feed 2).entry.jump ≤ 1024 :=
  ⟨reaches _ _ (packetBytes 10 0 3 0 [1]) _ (by decide +kernel) (by decide +kernel) (by decide +kernel)
    (by decide +kernel) (by decide +kernel) (by decide +kernel), by decide +kernel⟩

/-- Against a record of 3 fragments that holds fragment 1 at bytes 5 to 9. -/
theorem witness_Misplaced :
    let s := holding
    ((s.window 2).records.find? fun r => r.frame == 10) = some (rec1 10 1) ∧ (4 : Nat) ≠ (rec1 10 1).declared ∧
    (∃ h ∈ (rec1 10 1).held, h.index = 1) ∧ (∀ h ∈ (rec1 10 1).held, h.index ≠ 2) ∧
    (∃ h ∈ (rec1 10 1).held, rangesShare h.offset h.length 9 1 = true) ∧
    ∀ h ∈ (rec1 10 1).held, rangesShare h.offset h.length 10 1 = false := by decide +kernel

theorem witness_FirstFragment :
    armed.reachesPath oneByte (packetOf 10 0 3 0 [1]) 2 ∧
    pathDropped (armed.feed 2).entry (armed.health 2) 0 = false ∧ (armed.take 2).state = .armed ∧
    (armed.window 2).base = none ∧ (armed.window 2).records = [] ∧ 1 < (packetOf 10 0 3 0 [1]).count ∧
    (armed.cells.acquire).map Prod.fst = some 0 :=
  ⟨reaches _ _ (packetBytes 10 0 3 0 [1]) _ (by decide +kernel) (by decide +kernel) (by decide +kernel)
    (by decide +kernel) (by decide +kernel) (by decide +kernel), by decide +kernel⟩

theorem holding_feed (f : FeedNo) (h : f ≠ 2) : holding.feed f = Feed.reset := by
  revert f; decide +kernel

theorem holding_window : holding.window 2 = { Window.reset with base := some 10, records := [rec1 10 1] } := by
  decide +kernel

theorem reset_window_sound (n : Nat) : Feed.reset.windowSound n := ⟨rfl, fun _ => ⟨rfl, rfl⟩, nofun⟩

theorem rec1_sound (frame : Half) : (rec1 frame 1).sound := ⟨by simp [rec1], by simp [rec1], by simp [rec1]⟩

/-- A window with records at distances 0 and 31, and a step of it. -/
theorem witness_WindowsStaySound :
    let s := holding.setWindow 2 { holding.window 2 with records := [rec1 10 1, rec1 41 1] }
    s.windowsSound ∧ ∃ t, step s = .next t := by
  refine ⟨⟨fun f => ?_, fun h => absurd h (by decide +kernel)⟩, _, rfl⟩
  by_cases h : f = 2
  · subst h
    refine ⟨?_, fun hs => absurd (by decide +kernel) hs, by decide +kernel⟩
    show List.Pairwise (fun x y => distance 10 x.frame < distance 10 y.frame ∧ x.deadline ≤ y.deadline)
      [rec1 10 1, rec1 41 1] ∧ ∀ r ∈ [rec1 10 1, rec1 41 1], distance 10 r.frame < 32 ∧ r.sound
    refine ⟨by decide, fun r hr => ?_⟩
    rcases List.mem_cons.mp hr with rfl | hr
    · exact ⟨by decide, rec1_sound 10⟩
    · rw [List.mem_singleton.mp hr]; exact ⟨by decide, rec1_sound 41⟩
  · have hf : (holding.setWindow 2 { holding.window 2 with records := [rec1 10 1, rec1 41 1] }).feed f = Feed.reset := by
      revert f; decide +kernel
    rw [hf]; exact reset_window_sound _

/-- Feed 2's take RECORDING with base `b` and no record. -/
def based (b : Half) : State := recording.setWindow 2 { recording.window 2 with base := some b }

theorem witness_InWindow :
    (based 10).reachesPath oneByte (packetOf 10 0 3 0 [1]) 2 ∧ (based (10 - 31)).reachesPath oneByte (packetOf 10 0 3 0 [1]) 2 ∧
    pathDropped ((based 10).feed 2).entry ((based 10).health 2) 0 = false ∧ ((based 10).window 2).base = some 10 ∧
    distance 10 10 = 0 ∧ distance (10 - 31) 10 = 31 :=
  ⟨reaches _ _ (packetBytes 10 0 3 0 [1]) _ (by decide +kernel) (by decide +kernel) (by decide +kernel)
    (by decide +kernel) (by decide +kernel) (by decide +kernel),
   reaches _ _ (packetBytes 10 0 3 0 [1]) _ (by decide +kernel) (by decide +kernel) (by decide +kernel)
    (by decide +kernel) (by decide +kernel) (by decide +kernel), by decide +kernel⟩

theorem based_window (b : Half) : (based b).window 2 = { recording.window 2 with base := some b } := by
  simp [based, State.window, State.setWindow, State.setFeed, State.feed]

theorem based_feed (b : Half) : (based b).feed 2 = { recording.feed 2 with window := (based b).window 2 } := by
  rw [based_window]; simp [based, State.window, State.setWindow, State.setFeed, State.feed]

theorem based_sound (b : Half) : (based b).windowsSound := by
  have ho : ∀ f, f ≠ 2 → (based b).feed f = recording.feed f := fun f hf =>
    Vector.getElem_set_ne (by decide) f.isLt (fun h => hf (Fin.ext h.symm))
  have hr : ∀ f, f ≠ 2 → recording.feed f = Feed.reset := by decide +kernel
  refine ⟨fun f => ?_, fun h => absurd h (show recording.settings.started ≠ false by decide +kernel)⟩
  by_cases h : f = 2
  · subst h
    have hn : (recording.window 2).records = [] := by decide +kernel
    rw [based_feed, based_window]
    refine ⟨?_, fun h => absurd (show (recording.take 2).state = .recording by decide +kernel) h, ?_⟩
    · simp only [Window.ordered, hn]; exact ⟨.nil, nofun⟩
    · simp only [hn]; nofun
  · rw [ho f h, hr f h]; exact reset_window_sound _

/-- The first and the last distance of the overrun region, and of the discontinuity region, at jump limit 1,024. -/
theorem witness_BeyondWindow (b : Half) :
    ([10 - 32, 10 - 1055, 10 - 1056, 10 - 49151].map fun b => distance b 10) = [32, 1055, 1056, 49151] ∧
    (based b).windowsSound ∧ (based b).reachesPath oneByte (packetOf 10 0 3 0 [1]) 2 ∧
    pathDropped ((based b).feed 2).entry ((based b).health 2) 0 = false ∧ ((based b).take 2).state = .recording ∧
    ((based b).window 2).base = some b ∧ ((based b).feed 2).entry.jump = 1024 ∧ 1 < (packetOf 10 0 3 0 [1]).count ∧
    ((based b).window 2).records = [] := by
  have ht : ((based b).take 2).state = .recording := by
    rw [State.take, based_feed]; show (recording.take 2).state = .recording; decide +kernel
  have he : ((based b).feed 2).entry = (recording.feed 2).entry := by rw [based_feed]
  have hh : (based b).health 2 = recording.health 2 := by rw [State.health, based_feed]; rfl
  refine ⟨by decide, based_sound b, reaches _ _ (packetBytes 10 0 3 0 [1]) _
    (show recording.settings.started = true by decide +kernel)
    (show judgeFrame recording.line.address recording.line.udpPort oneByte = _ by decide +kernel) (by decide +kernel) rfl
    (.inr ht) (by rw [he]; decide +kernel), by rw [he, hh]; decide +kernel, ht, by rw [based_window],
    by rw [he]; decide +kernel, by decide,
    by rw [based_window]; show (recording.window 2).records = []; decide +kernel⟩

/-- Fragment 2 behind and fragment 0 before the one held; a record of two that fragment 0 completes; no cell free. -/
theorem witness_Placed :
    (holding.take 2).state = .recording ∧ (holding.window 2).base = some 10 ∧ (holding.window 2).records = [rec1 10 1] ∧
    (rec1 10 1).declared = 3 ∧ (∀ h ∈ (rec1 10 1).held, h.index < 2) ∧ (∀ h ∈ (rec1 10 1).held, 0 < h.index) ∧
    (∀ h ∈ (rec1 10 1).held, rangesShare h.offset h.length 10 1 = false ∧ rangesShare h.offset h.length 0 5 = false) ∧
    (holding.cells.acquire).map Prod.fst = some 0 ∧ ((rec1 10 1).held.length + 1 ≠ (rec1 10 1).declared) ∧
    (rec1 10 1).held.length + 1 = { rec1 10 1 with declared := 2 }.declared ∧
    { holding.cells with free := [], freeCount := 0 }.acquire = none := by decide +kernel

/-- A new record behind, before and between two records, at the base and 31 from it; one of one fragment at the base. -/
theorem witness_NewRecord :
    (∀ q ∈ [rec1 10 1], distance 10 q.frame < distance 10 12) ∧ (∀ q ∈ [rec1 41 1], distance 10 12 < distance 10 q.frame) ∧
    (∀ q ∈ [rec1 12 1, rec1 41 1], distance 10 10 < distance 10 q.frame) ∧
    (∀ q ∈ [rec1 10 1, rec1 12 1], distance 10 q.frame < distance 10 41) ∧
    (rec1 10 1).complete = false ∧ (recording.take 2).state = .recording ∧ (recording.window 2).base = some 10 ∧
    (recording.window 2).records = [] ∧ (recording.cells.acquire).map Prod.fst = some 0 := by decide +kernel

/-- R22: a record that comes before another takes the smaller deadline. -/
theorem test_new_record_deadline :
    insertRecord 10 { rec1 11 0 with deadline := 30000 } [rec1 10 1, rec1 12 1] =
      [rec1 10 1, { rec1 11 0 with deadline := 20000 }, rec1 12 1] := by decide

/-- R28: a release hands the declared count and the release time on. -/
theorem test_release_hands_declared_count :
    ((holding.window 2).takeBase 10 77).1.declared = some 3 ∧ ((holding.window 2).takeBase 10 77).1.time = 77 := by
  decide +kernel

/-- At the deadline itself, the last room of the index area and the last ordinal of its page. -/
theorem witness_DeadlineHeaderless :
    let s := holding
    (s.take 2).state = .recording ∧ (s.window 2).base = some 10 ∧ (s.window 2).records = [rec1 10 1] ∧
    (rec1 10 1).frame = 10 ∧ (rec1 10 1).complete = false ∧ (∀ h ∈ (rec1 10 1).held, h.index ≠ 0) ∧
    (rec1 10 1).deadline ≤ max s.time 20000 ∧ (s.take 2).comp.nextOrdinal / 63 < (s.take 2).index.length / 2048 ∧
    (s.take 2).comp.nextOrdinal < 4294967295 ∧ (s.take 2).page.openPage = (s.take 2).comp.nextOrdinal / 63 ∧
    (s.take 2).page.entries.length < 62 ∧ (s.take 2).page.owed = false ∧ (s.take 2).page.waiting = none := by
  decide +kernel

/-! ## Witnesses: composition and browse copies -/

/-- Two held fragments that share no byte and cover bytes 2 to 9. -/
theorem witness_Pieces :
    let hs : List Held := [⟨0, 0, 5, 3⟩, ⟨1, 5, 5, 4⟩]
    hs.Pairwise (fun x y => rangesShare x.offset x.length y.offset y.length = false) ∧ covered hs 2 8 = true := by
  decide

/-- The directory of a frame of raster 1 whose slices are too short to be ORIGINAL, so that every slice is FILLER. -/
def shortHeader : Bytes :=
  be1 1 ++ [7] ++ be4 0 ++ be2 45 ++ be4 437 ++ be4 437 ++ be2 0 ++ zeroBytes 14 ++
  (List.range 45).flatMap fun n => be4 (392 + n) ++ be2 1 ++ zeroBytes 2

/-- A take that can record one such frame, its header in cell 0. -/
def ready : State :=
  let s := onTake 2 (fun t => { t with essence := ⟨0, 65536⟩, comp := { t.comp with sources := List.replicate 45 none } })
    recording
  { s with cells := { s.cells with refs := [(0, 1)], free := [(1, 131071)], freeCount := 131071, freeLow := 131071,
                                   bytes := Memory.write 0 [] 0 shortHeader } }

/-- The released frame: its fragment 0 only. -/
def releasedFrame : Released := { frame := 10, kind := .partially, declared := some 3, held := [⟨0, 0, 392, 0⟩], mark := false, time := 0 }

theorem witness_RecordedFrame :
    (match judge (ready.take 2).comp ready.cells releasedFrame with
     | .planned p => (ready.take 2).indexRoom && p.fillers == 45 &&
        decide ((ready.take 2).comp.nextOffset + p.padded ≤ (ready.take 2).essence.length)
     | .lost _ => false) = true ∧
    ready.store.essenceQ.length < 64 ∧ (ready.cells.acquire).map Prod.fst = some 1 ∧ (ready.take 2).profile = .none ∧
    (ready.take 2).state = .recording ∧ (ready.take 2).page.openPage = (ready.take 2).comp.nextOrdinal / 63 ∧
    (ready.take 2).page.entries.length < 62 ∧ (ready.take 2).page.owed = false ∧
    (ready.take 2).page.waiting = none := by decide +kernel

/-- Bytes 392 to 1,359 of a frame unit, in fragments of `n` bytes, the first in cell 1. -/
def fragments (n : Nat) : List Held :=
  (List.range ((968 + n - 1) / n)).map fun i => ⟨i + 1, 392 + n * i, min n (968 - n * i), i + 1⟩

/-- The cells of those fragments, which carry slice 0 of raster 1 with DC values of 0. -/
def sliceCells : CellMem := CellMem.reset (Memory.write 0 [] 2048 (be2 0 ++ [0, 0] ++ be2 480))

/-- R64: ORIGINAL; DAMAGED for its number, and SUBSTITUTED at age 255; SPLIT at 17 pieces and not at 16; MISSING at a byte
not held. -/
theorem test_slice_plans :
    let e : SourceEntry := { pieces := [⟨7, 0, 968⟩], length := 968, ordinal := 44 }
    planSlice sliceCells .r720 (fragments 968) 300 0 392 968 (some e) = ⟨.original, 968, [⟨1, 0, 968⟩]⟩ ∧
    planSlice sliceCells .r720 (fragments 968) 300 1 392 968 (some e) = ⟨.substituted 255 .damaged, 968, [⟨7, 0, 968⟩]⟩ ∧
    (planSlice sliceCells .r720 (fragments 61) 300 0 392 968 none).source = .original ∧
    planSlice sliceCells .r720 (fragments 57) 300 0 392 968 none = ⟨.filler .split, 968, []⟩ ∧
    (planSlice sliceCells .r720 (fragments 968) 298 0 392 969 (some e)).source = .substituted 254 .missing := by
  decide +kernel

/-- Held fragments that share no byte, and a table entry whose pieces make up its length. -/
theorem witness_GatherSums :
    (fragments 61).Pairwise (fun x y => rangesShare x.offset x.length y.offset y.length = false) ∧
    releasedFrame.held.Pairwise (fun x y => rangesShare x.offset x.length y.offset y.length = false) ∧
    ∀ e ∈ (ready.take 2).comp.sources, e = none := by decide +kernel

/-- The four judgements; a full index area, an essence area too small; a full ESSENCE queue, no cell free. -/
theorem witness_Unrecorded :
    ({ releasedFrame with kind := .absent, declared := none, held := [] } : Released).kind = .absent ∧
    (∀ h ∈ ({ releasedFrame with held := [⟨1, 0, 5, 0⟩] } : Released).held, h.index ≠ 0) ∧
    parseHeader ((CellMem.reset []).read { cell := 0, offset := 0, length := 392 }) = none ∧
    (parseHeader (ready.cells.read { cell := 0, offset := 0, length := 392 })).map (fun h => (h.raster, h.rate)) =
      some (.r720, 7) ∧ (ready.take 2).comp.raster = some .r720 ∧ (ready.take 2).comp.rate = none ∧
    ¬ (252 / 63 < (ready.take 2).index.length / 2048) ∧ 251 / 63 < (ready.take 2).index.length / 2048 ∧
    (match judge (ready.take 2).comp ready.cells releasedFrame with
     | .planned p => decide (8192 < (ready.take 2).comp.nextOffset + p.padded)
     | .lost _ => false) = true ∧
    64 ≤ (List.replicate 64 (bound (.essence 0 []) []).request).length ∧
    { ready.cells with free := [], freeCount := 0 }.acquire = none := by decide +kernel

/-- Feed 2's take with an ACTIVE browse copy of 2 slots. -/
def browsing (out : Option (Nat × Nat)) : State :=
  onTake 2 (fun t => { t with profile := .sixteenth, copy := { t.copy with
    status := .active, slotBytes := 512, slotCount := 2, outstanding := out } }) recording

/-- The last slot that fits: free, busy, and held by the store floor or by the high water. -/
theorem witness_BrowseBuild :
    ((browsing none).take 2).copy.status = .active ∧
    1 / ((browsing none).take 2).divisor < ((browsing none).take 2).copy.slotCount ∧
    ((browsing none).take 2).copy.outstanding = none ∧ (browsing none).store.held .browse = false ∧
    (browsing none).store.browseQ.length < 32 ∧ ((browsing (some (0, 0))).take 2).copy.outstanding ≠ none ∧
    ({ (browsing none).store with settings := { StoreSettings.reset with floor := .noBrowse } } : StorePort).held .browse = true ∧
    ({ (browsing none).store with
        essenceQ := List.replicate 48 (bound (.essence 0 []) []).request } : StorePort).held .browse = true ∧
    32 ≤ ({ (browsing none).store with
        browseQ := List.replicate 32 (bound (.browse 0 0) []).request } : StorePort).browseQ.length ∧
    ((browsing none).take 2).copy.slotCount ≤ 2 / ((browsing none).take 2).divisor ∧
    ((browsing none).take 2).profile ≠ .none ∧ 2 % ((browsing none).take 2).divisor = 0 ∧
    ((onTake 2 (fun t => { t with copy := { t.copy with status := .ended } }) (browsing none)).take 2).copy.status = .ended := by
  decide +kernel

/-- R112 case 2, R123: the slot behind the last ends browse, and frees the contexts of the take alone. -/
theorem test_slot_that_does_not_fit :
    let s := { browsing none with pool := { (browsing none).pool with
      contexts := ((browsing none).pool.contexts.set 5 (some (2, 0))).set 6 (some (3, 0)) } }
    (s.buildBrowse 2 .r720 [] 2 0 0).1 = (.none, none) ∧
    ((s.buildBrowse 2 .r720 [] 2 0 0).2.take 2).copy.reason = some .areaFull ∧
    (s.buildBrowse 2 .r720 [] 2 0 0).2.pool.contexts[(5 : Fin 16)] = none ∧
    (s.buildBrowse 2 .r720 [] 2 0 0).2.pool.contexts[(6 : Fin 16)] = some (3, 0) := by decide +kernel

theorem witness_BuiltPlanes :
    Profile.sixteenth ≠ Profile.none ∧ (List.replicate 45 BuildSlice.filler).length = Raster.r720.slices ∧
    8 + 2 * Raster.r720.blocks ≤ (zeroBytes 968).length ∧
    ∀ b ∈ List.replicate 45 BuildSlice.filler, ∀ bs, b = BuildSlice.read bs → 8 + 2 * Raster.r720.blocks ≤ bs.length := by
  refine ⟨by decide, by decide, by decide +kernel, fun b hb bs h => ?_⟩
  rw [List.eq_of_mem_replicate hb] at h
  cases h

/-! ## Witnesses: takes -/

/-- ARM TAKE of feed 2: raster 1, with a profile, a divisor, the essence area's length and a context choice. -/
def armBody (raster profile divisor : Byte) (essence browse : Nat) (choice : Bytes) : Bytes :=
  [2] ++ be4 1 ++ [raster, profile, divisor] ++ be8 0 ++ be8 essence ++ be8 65536 ++ be8 browse ++ be8 131072 ++
  be8 2048 ++ choice

/-- R81: a context choice byte of 5 is refused at order 6, behind the take's state. -/
theorem test_choice_byte_5 :
    after (exec (.armTake 1) (asking 0x20 (armBody 1 1 1 512 51200 [5]) fed))
      (fun s => s.link.reply.outcome == .badArgument) = true ∧
    after (exec (.armTake 1) (asking 0x20 (armBody 1 1 1 512 51200 [5]) armed))
      (fun s => s.link.reply.outcome == .refusedState) = true := by decide +kernel

/-- An accepted ARM TAKE takes contexts 15 and 0, the divisor clamped. -/
theorem witness_ArmTake :
    let b := armBody 1 1 9 512 51200 [1, 15]
    (asking 0x20 b fed).dispatches 0x20 b = true ∧ (fed.take 2).state = .idle ∧ (fed.feed 2).entry.enable = true ∧
    (match parseArm b with
     | some a => a.feed == 2 && Raster.ofCode a.raster == some .r720 && Profile.ofCode a.profile == some .eighth &&
        fed.areasFit a .eighth && !badChoice (contextsNeeded .r720 .eighth) a.choice &&
        !fed.lacksContexts (contextsNeeded .r720 .eighth) a.choice
     | none => false) = true := by decide +kernel

theorem witness_ArmTakeRefused :
    (armed.take 2).state ≠ .idle ∧ (base.feed 2).entry.enable = false ∧ (fed.feed 2).entry.enable = true ∧
    Raster.ofCode 4 = none ∧ Profile.ofCode 4 = none ∧
    (match parseArm (armBody 1 0 1 0 0 [0]), parseArm (armBody 1 1 1 512 51200 [2, 1, 1]),
       parseArm (armBody 1 1 1 512 51200 [1, 15]) with
     | some a, some b, some c =>
       !fed.areasFit a .none && fed.areasFit b .eighth && badChoice (contextsNeeded .r720 .eighth) b.choice &&
       { fed with pool := { fed.pool with contexts := fed.pool.contexts.set 15 (some (0, 0)) } }.lacksContexts
         (contextsNeeded .r720 .eighth) c.choice
     | _, _, _ => false) = true := by decide +kernel

theorem witness_AreasStayApart : armed.areasApart ∧ ∃ t, step armed = .next t := by
  refine ⟨fun f hf => ?_, _, rfl⟩
  have hi : ∀ g, g ≠ 2 → (armed.take g).state = .idle := by decide +kernel
  by_cases h : f = 2
  · subst h
    refine ⟨by decide +kernel, by decide +kernel, by decide +kernel, fun g hg hn => absurd (hi g hg) hn⟩
  · exact absurd (hi f h) hf

theorem witness_StopTake :
    ((asking 0x21 (be1 2) armed).dispatches 0x21 (be1 2) = true ∧ ((asking 0x21 (be1 2) armed).take 2).state = .armed ∧
      (armed.window 2).base = none ∧ (armed.window 2).records = []) ∧
    (asking 0x21 (be1 2) recording).dispatches 0x21 (be1 2) = true ∧ (recording.take 2).state = .recording ∧
    (recording.window 2).records = [] := by decide +kernel

theorem holding_sound : holding.windowsSound := by
  refine ⟨fun f => ?_, fun h => absurd h (by decide +kernel)⟩
  by_cases h : f = 2
  · subst h
    refine ⟨?_, fun hs => absurd (by decide +kernel) hs, by decide +kernel⟩
    show List.Pairwise (fun x y => distance 10 x.frame < distance 10 y.frame ∧ x.deadline ≤ y.deadline) [rec1 10 1] ∧
      ∀ r ∈ [rec1 10 1], distance 10 r.frame < 32 ∧ r.sound
    refine ⟨by decide, fun r hr => ?_⟩
    rw [List.mem_singleton.mp hr]; exact ⟨by decide, rec1_sound 10⟩
  · rw [holding_feed f h]; exact reset_window_sound _

theorem witness_StopTakeFlushes :
    (asking 0x21 (be1 2) holding).dispatches 0x21 (be1 2) = true ∧ (asking 0x21 (be1 2) holding).windowsSound ∧
    (holding.take 2).state = .recording ∧ (holding.window 2).base = some 10 ∧
    (holding.window 2).records = [] ++ [rec1 10 1] :=
  ⟨by decide +kernel, holding_sound, by decide +kernel, by decide +kernel, by decide +kernel⟩

/-- R36: a base without its record and the record behind it become two ordinals, and the take drains. -/
theorem test_stop_flushes :
    after (exec (.stopTake 1) { asking 0x21 (be1 2) (recording.setWindow 2
        { recording.window 2 with records := [rec1 11 1], mark := true }) with free := { count := 0, lanes := [false] } })
      (fun s => (s.take 2).state == .draining && (s.take 2).endCause == some .stopped &&
        (s.take 2).page.entries.map (fun e => (e.ordinal, e.discontinuity)) == [(0, true), (1, false)]) = true := by
  decide +kernel

theorem witness_AbortTake :
    (asking 0x22 (be1 2) armed).dispatches 0x22 (be1 2) = true ∧ (armed.take 2).state = .armed ∧
    (asking 0x22 (be1 2) holding).dispatches 0x22 (be1 2) = true ∧ (holding.take 2).state = .recording ∧
    ((onTake 2 (fun t => { t with copy := { t.copy with status := .active } }) armed).take 2).copy.outstanding = none ∧
    (inState 2 .draining base |>.take 2).state = .draining ∧
    (withTag (.inFlight (bound (.essence 0 []) [])) holding).store.anyFlying 2 = true := by decide +kernel

theorem witness_ReleaseTake :
    (asking 0x23 (be1 2) (inState 2 .closed base)).dispatches 0x23 (be1 2) = true ∧
    ((inState 2 .closed base).take 2).state = .closed ∧ ((inState 2 .aborted base).take 2).state = .aborted ∧
    ((inState 2 .faulted base).take 2).state = .faulted ∧ (inState 2 .closed base).store.anyBound 2 = false ∧
    (∀ e ∈ ((inState 2 .closed base).take 2).comp.sources, e = none) ∧
    (withTag (.quarantined (bound (.essence 0 []) [])) (inState 2 .faulted base)).store.anyBound 2 = true := by
  decide +kernel

/-- An entry of ordinal 0. -/
def entry0 : IndexEntry := repeatEntry Composition.reset { releasedFrame with held := [] } .absent false

/-- Feed 2's take with one entry not yet captured, its timer to expire at 40,000. -/
def uncaptured : State :=
  onTake 2 (fun t => { t with timer := some 40000, page := { t.page with entries := [entry0] } }) recording

theorem witness_Timer :
    (uncaptured.take 2).timer = some 40000 ∧ 40000 ≤ max uncaptured.time 40000 ∧
    (uncaptured.take 2).state = .recording ∧ (uncaptured.take 2).page.waiting = none ∧
    (uncaptured.take 2).page.captured < (uncaptured.take 2).page.entries.length ∧
    (∀ r ∈ uncaptured.store.indexQ, r.isPage 2 (uncaptured.take 2).page.openPage = false) ∧
    uncaptured.store.indexQ.length < 16 ∧ (uncaptured.cells.acquire).map Prod.fst = some 0 := by decide +kernel

/-- Feed 2's take with `n` entries in page 0, the first `c` captured, its snapshot owed or not, a page waiting or not. -/
def paged (n c : Nat) (owed : Bool) (w : Option WaitingPage) : State :=
  onTake 2 (fun t => { t with page := { t.page with
    entries := List.replicate n entry0, captured := c, owed := owed, waiting := w } }) recording

/-- A page that waits, with `n` entries. -/
def waitingPage (n : Nat) : WaitingPage := { page := 7, entries := List.replicate n entry0, acc := Accumulator.clear }

/-- `s` with no cell free. -/
def noCells (s : State) : State := { s with cells := { s.cells with free := [], freeCount := 0, freeLow := 0 } }

/-- The 63rd entry and the one behind it; with room, and with no cell free; a page owed, and one waiting. -/
theorem witness_JoinEntry :
    ((paged 62 0 false none).take 2).state = .recording ∧ 62 / 63 = 0 ∧ 63 / 63 = 0 + 1 ∧
    ((paged 62 0 false none).take 2).page.entries.length = 62 ∧ ((paged 61 9 true none).take 2).page.entries.length < 62 ∧
    ((paged 61 9 true none).take 2).page.captured ≤ ((paged 61 9 true none).take 2).page.entries.length ∧
    ((paged 61 61 false (some (waitingPage 63))).take 2).page.waiting = some (waitingPage 63) ∧
    (∀ r ∈ (paged 63 0 true none).store.indexQ, r.isPage 2 0 = false) ∧ (paged 63 0 true none).store.indexQ.length < 16 ∧
    ((paged 63 0 true none).cells.acquire).map Prod.fst = some 0 ∧ (noCells (paged 63 0 true none)).cells.acquire = none ∧
    ((noCells (paged 63 0 true (some (waitingPage 63)))).take 2).page.owed = true := by decide +kernel

theorem witness_SnapshotStuck (page : Nat) :
    (noCells (paged 63 0 true (some (waitingPage 63)))).snapshotStuck 2 page := by
  have h : (noCells (paged 63 0 true (some (waitingPage 63)))).store.indexQ = [] := by decide +kernel
  refine ⟨fun r hr => ?_, .inr (by decide +kernel)⟩
  rw [h] at hr; cases hr

/-- R94: the turn with the open page owed and no page waiting, and with one waiting. -/
theorem test_turn_of_owed_page :
    let e := { entry0 with ordinal := 63 }
    (((noCells (paged 63 0 true none)).joinEntry 2 e).take 2).page.waiting.map (·.page) = some 0 ∧
    (((noCells (paged 63 0 true (some (waitingPage 63)))).joinEntry 2 e).take 2).endCause = some .indexFailed := by
  decide +kernel

/-- Feed 2's take with its page's request queued behind and before another page's. -/
def queued : State :=
  { uncaptured with store := { uncaptured.store with
      indexQ := [(bound (.index 1 1 8) [8]).request] ++ (bound (.index 0 0 9) [9]).request ::
        [(bound (.index 2 1 10) [10]).request] } }

theorem witness_Flush :
    (asking 0x25 (be1 2) queued).dispatches 0x25 (be1 2) = true ∧ (queued.take 2).state = .recording ∧
    (queued.take 2).page.waiting = none ∧ (bound (.index 0 0 9) [9]).request.take = 2 ∧
    (bound (.index 0 0 9) [9]).request.subject = .index (queued.take 2).page.openPage 0 9 ∧
    ∀ q ∈ [(bound (.index 1 1 8) [8]).request] ++ [(bound (.index 2 1 10) [10]).request],
      q.isPage 2 (queued.take 2).page.openPage = false := by decide +kernel

theorem reset_fronts_sound : Take.reset.frontsSound := by
  refine ⟨by decide, by decide, by decide, ⟨by decide, fun w h => by cases h⟩, by decide, by decide⟩

theorem base_take (f : FeedNo) : base.take f = Take.reset := by revert f; decide +kernel

/-- Feed 2's take RECORDING with two released, one covered, and the essence of ordinal 1 not yet written. -/
def fronts : State :=
  onTake 2 (fun t => { t with state := .recording, comp := { t.comp with nextOrdinal := 2 }, covered := 1,
                              unwritten := [1], frontier := 1 }) base

theorem fronts_takesSound : fronts.takesSound := by
  have other : ∀ f, f ≠ 2 → fronts.take f = Take.reset := by decide +kernel
  have two : fronts.take 2 = { Take.reset with
      state := .recording, comp := { Composition.reset with nextOrdinal := 2 }, covered := 1, unwritten := [1],
      frontier := 1 } := by decide +kernel
  have none : ∀ f, fronts.store.anyRequest f = false ∧ fronts.store.anyQueued f = false := by decide +kernel
  have queues : fronts.store.indexQ ++ fronts.store.essenceQ ++ fronts.store.browseQ = [] ∧ fronts.store.bound = [] := by
    decide +kernel
  intro f
  refine ⟨?_, fun _ => (none f).1, fun _ => (none f).2, ?_, ?_⟩
  · by_cases h : f = 2
    · subst h
      rw [two]
      refine ⟨by decide, by decide, by decide, ⟨by decide, fun w h => by cases h⟩, by decide, by decide⟩
    · rw [other f h]; exact reset_fronts_sound
  · rw [queues.1]; nofun
  · rw [queues.2]; nofun

theorem witness_Frontier :
    fronts.takesSound ∧ (∃ t, step fronts = .next t ∧ (t.take 2).state ≠ .idle) ∧ (fronts.take 2).state ≠ .idle :=
  ⟨fronts_takesSound, ⟨_, rfl, by decide +kernel⟩, by decide +kernel⟩

/-! ## Witnesses: cells and the store port -/

/-- A cell memory of sound counts with cell 0 held twice. -/
def twoHoldings : CellMem :=
  { refs := [(0, 2)], free := [(1, 131071)], freeCount := 131071, freeLow := 131071, bytes := [] }

theorem witness_CellCounts : twoHoldings.sound ∧ 0 < twoHoldings.count 0 ∧ (twoHoldings.acquire).isSome = true ∧
    { twoHoldings with refs := [(0, 1)] }.count 0 = 1 := by
  have hf : freeCells twoHoldings.free = List.range' 1 131071 := by simp [twoHoldings, freeCells]
  have hc : ∀ c, twoHoldings.count c = if 0 = c then 2 else 0 := by
    intro c; simp [twoHoldings, CellMem.count, sparseGet]
  refine ⟨⟨⟨by decide, by decide⟩, ?_, ?_, by decide, ?_, ?_⟩, by decide, by decide, by decide⟩
  · rw [hf]; exact List.nodup_range'
  · rw [hf]; simp [twoHoldings]
  · intro c hcc
    rw [hf, hc, List.mem_range'_1]
    simp only [Config.cellCount] at hcc
    split <;> omega
  · intro c hcc
    rw [hf, hc, List.mem_range'_1]
    simp only [Config.cellCount] at hcc
    rw [if_neg (by omega)]
    exact ⟨by omega, rfl⟩

/-- A take RECORDING whose window holds cell 0, in fragment 1 of frame 10, and no other cell held. -/
def counted : State :=
  let s := onTake 2 (fun t => { t with comp := { t.comp with sources := List.replicate 45 none } }) recording
  { s.setWindow 2 { s.window 2 with records := [{ rec1 10 1 with held := [⟨1, 5, 5, 0⟩] }] } with
    cells := { refs := [(0, 1)], free := [(1, 131071)], freeCount := 131071, freeLow := 131071, bytes := [] } }

theorem counted_cellsSound : counted.cells.sound := by
  have hf : freeCells counted.cells.free = List.range' 1 131071 := by simp [counted, freeCells]
  have hc : ∀ c, counted.cells.count c = if 0 = c then 1 else 0 := by
    intro c; simp [counted, CellMem.count, sparseGet]
  refine ⟨⟨by decide, by decide⟩, ?_, ?_, by decide, ?_, ?_⟩
  · rw [hf]; exact List.nodup_range'
  · rw [hf]; simp [counted]
  · intro c hcc
    rw [hf, hc, List.mem_range'_1]
    simp only [Config.cellCount] at hcc
    split <;> omega
  · intro c hcc
    rw [hf, hc, List.mem_range'_1]
    simp only [Config.cellCount] at hcc
    rw [if_neg (by omega)]
    exact ⟨by omega, rfl⟩

theorem witness_Holdings : counted.holdingsSound ∧ ∃ t, step counted = .next t := by
  have hh : counted.holdings = [0] := by decide +kernel
  have other : ∀ f, f ≠ 2 → counted.feed f = Feed.reset := by decide +kernel
  have hc : ∀ c, counted.cells.count c = if 0 = c then 1 else 0 := by
    intro c; simp [counted, CellMem.count, sparseGet]
  refine ⟨⟨⟨counted_cellsSound, fun c => ?_⟩, ⟨fun f => ?_, fun h => absurd h (by decide +kernel)⟩, fun f => ?_⟩, _, rfl⟩
  · rw [hh, hc]; simp [List.count_cons]
  · by_cases h : f = 2
    · subst h
      refine ⟨?_, fun hs => absurd (by decide +kernel) hs, by decide +kernel⟩
      show List.Pairwise (fun x y => distance 10 x.frame < distance 10 y.frame ∧ x.deadline ≤ y.deadline)
        [{ rec1 10 1 with held := [⟨1, 5, 5, 0⟩] }] ∧
        ∀ r ∈ [{ rec1 10 1 with held := [⟨1, 5, 5, 0⟩] }], distance 10 r.frame < 32 ∧ r.sound
      refine ⟨by decide, fun r hr => ?_⟩
      rw [List.mem_singleton.mp hr]
      exact ⟨by decide, by simp, by simp [rec1], by simp⟩
    · rw [other f h]; exact reset_window_sound _
  · by_cases h : f = 2
    · subst h
      have hs : (counted.take 2).comp.sources = List.replicate 45 none := by decide +kernel
      refine ⟨fun hs => absurd hs (by decide +kernel), fun _ => ⟨.r720, by decide +kernel, by decide +kernel⟩, fun e he => ?_⟩
      rw [hs] at he; exact absurd (List.eq_of_mem_replicate he) (by simp)
    · have ht : counted.take f = Take.reset := by rw [State.take, other f h]; rfl
      rw [ht]; exact ⟨fun _ => rfl, by decide, nofun⟩

theorem witness_Memories : ready.memoriesCanonical ∧ ∃ t, step ready = .next t :=
  ⟨⟨by decide +kernel, by decide +kernel, by decide +kernel, by decide +kernel⟩, _, rfl⟩

/-- Full queues, and a step of them. -/
def full : State :=
  { base with store := { base.store with
      settling := .starting
      indexQ := (List.range 16).map fun n => (bound (.index n 1 n) [n]).request
      essenceQ := List.replicate 64 (bound (.essence 0 []) []).request
      browseQ := List.replicate 32 (bound (.browse 0 0) []).request } }

theorem witness_Queues : full.queuesFit ∧ full.oneQueuedPerPage ∧ ∃ t, step full = .next t :=
  ⟨⟨by decide +kernel, by decide +kernel, by decide +kernel⟩,
    by show (full.store.indexQ.filterMap Request.pageOf).Nodup; decide +kernel, _, rfl⟩

theorem witness_OneWrite :
    let s := withTag (.inFlight (bound (.index 0 1 4) [4])) queued
    s.oneWritePerPage ∧ ∃ t, step s = .next t :=
  ⟨by
    show ((withTag (.inFlight (bound (.index 0 1 4) [4])) queued).store.bound.filterMap fun i => i.request.pageOf).Nodup
    decide +kernel, _, rfl⟩

/-- A request passed over for its page, one chosen behind it, and a port with nothing eligible. -/
theorem witness_Arbiter :
    (withTag (.inFlight (bound (.index 0 1 4) [4])) queued).store.settling = .ended ∧ full.store.settling ≠ .ended ∧
    ((withTag (.inFlight (bound (.index 1 1 4) [4])) queued).store.choose 0).map Prod.fst =
      some (bound (.index 0 0 9) [9]).request ∧
    base.store.choose 0 = none ∧ base.store.tag 0 7 = .free := by decide +kernel

/-- R190: the bytes of a WRITE, the tag of the lane being the lowest free one. -/
theorem test_write_bytes :
    (queued.tryIssue 1).map (fun s => s.out.writes.map fun w => (w.lane, w.bytes.take 17)) =
      some [(1, [0, 1, 0, 0] ++ be8 0 ++ be4 512 ++ [0])] := by decide +kernel

theorem witness_Stray :
    (4 : Byte).toNat ≠ base.store.epoch.toNat ∧ 8 ≤ (8 : Byte).toNat ∧ base.store.tag 1 3 = .free ∧
    (3 : Byte).toNat = (3 : TagNo).val := by decide +kernel

/-- An essence write of a RECORDING take in flight. -/
def writing : State :=
  withTag (.inFlight (bound (.essence 1 []) [])) fronts

/-- An index write of page 1 with 4 entries in flight, behind a coverage of `c` with this completed list. -/
def indexing (c : Nat) (l : List (Nat × Nat)) : State :=
  onTake 2 (fun t => { t with covered := c, completed := l })
    (withTag (.inFlight (bound (.index 1 4 9) [9])) fronts)

/-- An essence write in RECORDING and, the last one, in DRAINING; index writes at, behind and ahead of the coverage. -/
theorem witness_OkCompletion :
    writing.store.tag 1 3 = .inFlight (bound (.essence 1 []) []) ∧ (bound (.essence 1 []) []).request.cls ≠ .browse ∧
    (writing.take 2).state = .recording ∧ ((inState 2 .draining writing).take 2).state = .draining ∧
    writing.store.indexQ = [] ∧ writing.store.essenceQ = [] ∧ writing.store.browseQ = [] ∧
    (indexing 67 []).store.tag 1 3 = .inFlight (bound (.index 1 4 9) [9]) ∧
    63 * 1 + 4 ≤ ((indexing 67 []).take 2).covered ∧
    (63 * 1 ≤ ((indexing 66 []).take 2).covered ∧ ((indexing 66 []).take 2).covered < 63 * 1 + 4 ∧
      ∀ c ∈ ((indexing 66 []).take 2).completed, 63 * c.1 ≠ 63 * 1 + 4) ∧
    ((indexing 125 [(2, 62), (3, 1)]).take 2).completed = (1 + 1, 62) :: [(3, 1)] ∧
    63 * 1 ≤ ((indexing 125 [(2, 62), (3, 1)]).take 2).covered ∧ ((indexing 125 [(2, 62), (3, 1)]).take 2).covered < 63 * 1 + 63 ∧
    (((indexing 62 [(0, 63)]).take 2).covered < 63 * 1 ∧ ∀ c ∈ ((indexing 62 [(0, 63)]).take 2).completed, c.1 < 1) := by
  decide +kernel

/-- A DRAINING take that this write is the last of, and one that another write in flight keeps. -/
theorem witness_DrainsOn :
    ¬ (inState 2 .draining writing).drainsOn 2 1 3 ∧
    (inState 2 .draining { writing with store := writing.store.setTag 0 0 (.inFlight (bound (.essence 0 []) [])) }).drainsOn 2 1 3 := by
  refine ⟨?_, .inr (.inr ⟨0, 0, bound (.essence 0 []) [], by decide, by decide +kernel, rfl⟩)⟩
  rintro (h | h | ⟨l, g, j, hne, hj, -⟩)
  · exact absurd h (by decide +kernel)
  · exact absurd (by decide +kernel) h
  · have hfree : ∀ l g, (l, g) ≠ ((1 : LaneNo), (3 : TagNo)) → (inState 2 .draining writing).store.tag l g = .free := by
      decide +kernel
    rw [hfree l g hne] at hj; cases hj

/-- An essence write of a FAULTED take, and a browse write of a take whose browse is ENDED. -/
theorem witness_LateCompletion :
    let s := withTag (.quarantined (bound (.essence 1 []) [])) (inState 2 .faulted fronts)
    let b := withTag (.quarantined (bound (.browse 0 0) []))
      (onTake 2 (fun t => { t with copy := { t.copy with status := .ended, outstanding := some (0, 0) } }) recording)
    s.store.tag 1 3 = .quarantined (bound (.essence 1 []) []) ∧ (bound (.essence 1 []) []).request.cls ≠ .browse ∧
    s.store.indexQ = [] ∧ s.store.essenceQ = [] ∧ s.store.browseQ = [] ∧
    b.store.tag 1 3 = .quarantined (bound (.browse 0 0) []) ∧ (bound (.browse 0 0) []).request.cls = .browse ∧
    b.store.indexQ = [] ∧ (b.take 2).copy.status = .ended ∧ (recording.take 2).copy.status ≠ .ended := by decide +kernel

theorem witness_BrowseCompletion :
    let s := withTag (.inFlight (bound (.browse 0 0) []))
      (onTake 2 (fun t => { t with copy := { t.copy with status := .ended, outstanding := some (0, 0) } }) recording)
    s.store.tag 1 3 = .inFlight (bound (.browse 0 0) []) ∧ (s.take 2).copy.status = .ended ∧
    (s.take 2).state ≠ .draining ∧ (s.take 2).state ≠ .aborting ∧ s.store.indexQ = [] ∧ s.store.essenceQ = [] ∧
    s.store.browseQ = [] := by decide +kernel

/-- A browse write in flight on tag 3 of lane 1, and an essence write on another tag or none. -/
def copying (other : Tag) : State :=
  { withTag (.inFlight (bound (.browse 0 0) [])) (browsing (some (0, 0))) with
    store := (withTag (.inFlight (bound (.browse 0 0) [])) (browsing (some (0, 0)))).store.setTag 0 0 other }

/-- Browse ACTIVE in RECORDING, DRAINING and ABORTING; the take's last write, and one with another in flight. -/
theorem witness_BrowseCompletionStates :
    (copying .free).store.tag 1 3 = .inFlight (bound (.browse 0 0) []) ∧ ((copying .free).take 2).copy.status ≠ .ended ∧
    ((copying .free).take 2).state = .recording ∧ ((inState 2 .draining (copying .free)).take 2).state = .draining ∧
    ((inState 2 .aborting (copying .free)).take 2).state = .aborting ∧
    (copying (.inFlight (bound (.essence 0 []) []))).fliesElse 2 1 3 ∧ ¬ (copying .free).fliesElse 2 1 3 ∧
    ((copying .free).take 2).page.owed = false ∧ ((copying .free).take 2).page.waiting = none := by
  refine ⟨by decide +kernel, by decide +kernel, by decide +kernel, by decide +kernel, by decide +kernel,
    ⟨0, 0, bound (.essence 0 []) [], by decide, by decide +kernel, rfl⟩, ?_, by decide +kernel, by decide +kernel⟩
  rintro ⟨l, g, j, hne, hj, -⟩
  have hfree : ∀ l g, (l, g) ≠ ((1 : LaneNo), (3 : TagNo)) → (copying .free).store.tag l g = .free := by decide +kernel
  rw [hfree l g hne] at hj; cases hj

/-- R121: OK while ACTIVE counts the slot written and keeps the take RECORDING; the last write of a DRAINING take closes it. -/
theorem test_browse_completion :
    after (exec (.completion 1 1 0 3 0 0) (copying .free)) (fun s => (s.take 2).state == .recording &&
      (s.take 2).copy.totals.written == 1 && !(s.take 2).copy.busy && (s.take 2).copy.status == .active) = true ∧
    after (exec (.completion 1 1 0 3 1 0) (inState 2 .draining (copying .free))) (fun s => (s.take 2).state == .closed &&
      (s.take 2).copy.totals.lostFailed == 1) = true := by decide +kernel

/-- At the deadline itself, in RECORDING and in DRAINING, of each class; a lane with every other tag quarantined. -/
theorem witness_FailedWrite :
    writing.store.tag 1 3 = .inFlight (bound (.essence 1 []) []) ∧
    (bound (.essence 1 []) []).deadline ≤ max writing.time 100 ∧ (writing.take 2).state = .recording ∧
    ((inState 2 .draining writing).take 2).state = .draining ∧ (1 : Byte) ≠ 0 ∧ writing.store.indexQ = [] ∧
    writing.store.essenceQ = [] ∧ writing.store.browseQ = [] ∧ (bound (.essence 1 []) []).request.cls = .essence ∧
    (indexing 0 []).store.tag 1 3 = .inFlight (bound (.index 1 4 9) [9]) ∧ (bound (.index 1 4 9) [9]).request.cls = .index ∧
    (withTag (.inFlight (bound (.browse 0 0) [])) recording).store.tag 1 3 = .inFlight (bound (.browse 0 0) []) ∧
    (bound (.browse 0 0) []).request.cls = .browse ∧ (recording.take 2).state ≠ .draining ∧
    (recording.take 2).state ≠ .aborting := by decide +kernel

theorem witness_SettlingEnds :
    let s := { base with store := { base.store with settling := .until 2000000 } }
    s.store.settling = .until 2000000 ∧ max s.time 1999999 < 2000000 ∧ 2000000 ≤ max s.time 2000000 ∧
    s.store.indexQ = [] ∧ s.store.essenceQ = [] ∧ s.store.browseQ = [] := by decide +kernel

/-- Values at and beyond the ranges, an empty lane set, and a floor code of 3. -/
theorem witness_SetStore :
    let b := [3, 1, 2, 0, 15] ++ be2 10001
    (asking 0x50 b base).dispatches 0x50 b = true ∧ (parseStore b).isSome = true ∧ base.store.indexQ = [] ∧
    (asking 0x50 [0, 1, 1, 0, 16, 0, 1] base).dispatches 0x50 [0, 1, 1, 0, 16, 0, 1] = true ∧
    parseStore [0, 1, 1, 0, 16, 0, 1] = none ∧ 2 < fieldNat [1, 1, 1, 3, 16, 0, 1] 3 1 := by decide +kernel

theorem witness_ResetStore :
    (asking 0x52 [] writing).dispatches 0x52 [] = true ∧ writing.store.indexQ = [] ∧ writing.store.essenceQ = [] ∧
    writing.store.browseQ = [] ∧ (∃ i ∈ writing.store.flying, i.request.take = 2 ∧ i.request.cls ≠ .browse) ∧
    (writing.take 2).state = .recording ∧ writing.store.anyBound 3 = false ∧ (writing.take 3).state ≠ .draining ∧
    (writing.take 3).state ≠ .aborting := by decide +kernel

/-! ## Witnesses: the health monitor -/

theorem witness_IntervalEnd :
    recording.monitor.nextEnd ≤ max recording.time 100000 ∧ (recording.take 2).state = .recording ∧
    (recording.take 3).state ≠ .recording ∧
    (recording.feed 2).present 4 ((recording.feed 2).measure 4) = true ∧
    (recording.feed 2).present 5 ((recording.feed 2).measure 5) = false := by decide +kernel

/-- R153: a loss of exactly the threshold is absent; one more per mille, and a late count at its threshold, are present. -/
theorem test_presence :
    let x := { recording.feed 2 with health := Health.reset, entry := { (recording.feed 2).entry with paths := 1 } }
    x.present 0 50 = false ∧ x.present 0 51 = true ∧ x.present 1 51 = false ∧ x.present 4 0 = true ∧ x.present 5 0 = false ∧
    x.present 8 7 = false ∧ x.present 8 8 = true ∧ x.present 16 0 = false ∧ x.present 16 1 = true := by decide +kernel

/-- The interval changed and not, each value beyond its range. -/
theorem witness_SetMonitor :
    let b := fun (n : Nat) => be2 n ++ [9] ++ (List.replicate 8 ([0, 0, 0, 0, 0, 1] : Bytes)).flatten
    (asking 0x30 (b 100) base).dispatches 0x30 (b 100) = true ∧ (parseMonitor (b 100)).isSome = true ∧
    clamp 10 1000 100 = base.monitor.interval ∧ (asking 0x30 (b 9) base).dispatches 0x30 (b 9) = true ∧
    (parseMonitor (b 9)).isSome = true ∧ clamp 10 1000 9 ≠ base.monitor.interval ∧
    (let bad := be2 100 ++ [2] ++ (List.replicate 8 ([0, 50, 0, 8, 1, 2] : Bytes)).flatten
     (asking 0x30 bad base).dispatches 0x30 bad = true ∧ 1 < fieldNat bad (3 + 6 * 7 + 5) 1) := by decide +kernel

/-- DROP in condition 7, and in condition 8. -/
theorem witness_SetActions :
    let b := fun (n : Nat) => [2] ++ (List.range 17).map fun i => if i = n then (32 : Byte) else 0
    (asking 0x31 (b 7) base).dispatches 0x31 (b 7) = true ∧ fieldNat (b 7) 0 1 = 2 ∧
    (match parseConditions ((b 7).drop 1), parseConditions ((b 8).drop 1) with
     | some v, some w => decide (∀ i : Fin 17, 8 ≤ i.val → v[i].2.drop = false) && w[(8 : Fin 17)].2.drop
     | _, _ => false) = true ∧ (asking 0x31 (b 8) base).dispatches 0x31 (b 8) = true := by decide +kernel

/-- Bit 6 set in the byte of condition 16. -/
theorem witness_SetActionsStructural :
    let b := [2] ++ (List.range 17).map fun i => if i = 16 then (64 : Byte) else 0
    (asking 0x31 b base).dispatches 0x31 b = true ∧ 64 ≤ fieldNat b (1 + 16) 1 := by decide +kernel

/-- Condition 16 named, and the first bit that names none. -/
theorem witness_ClearConditions :
    (asking 0x33 [2, 0, 1, 0, 0] base).dispatches 0x33 [2, 0, 1, 0, 0] = true ∧ fieldNat [2, 0, 1, 0, 0] 0 1 = 2 ∧
    parseConditionSet (field [2, 0, 1, 0, 0] 1 4) = some (1#17 <<< 16) ∧
    (asking 0x33 [2, 0, 2, 0, 0] base).dispatches 0x33 [2, 0, 2, 0, 0] = true ∧
    2 ^ 17 ≤ fieldNat [2, 0, 2, 0, 0] 1 4 ∧
    (asking 0x33 [8, 0, 0, 0, 0] base).dispatches 0x33 [8, 0, 0, 0, 0] = true ∧ 8 ≤ fieldNat [8, 0, 0, 0, 0] 0 1 := by
  decide +kernel

theorem witness_SettingsStaySound : fed.settingsSound ∧ ∃ t, step fed = .next t := ⟨fed_settingsSound, _, rfl⟩

end Sys2Proof.Tests
end

/-! # Settings: every step keeps them sound (R4, R5, R131, R150, R157, R175, R185)

A step either keeps every setting in force (`State.KeepsSettings`) or is one of the requests that set some, a region
read, or a reset. Each of the latter clamps or checks what it sets. -/

namespace Sys2Proof.Machine

/-! ## Clamped values and the numbers of a record -/

theorem le_clamp {a b : Nat} (h : a ≤ b) (v : Nat) : a ≤ clamp a b v := by
  unfold clamp; split <;> (try split) <;> omega

theorem clamp_le {a b : Nat} (h : a ≤ b) (v : Nat) : clamp a b v ≤ b := by
  unfold clamp; split <;> (try split) <;> omega

/-- A big-endian number of `n` bytes is below 256^n. -/
theorem beNat_lt (bs : Bytes) : beNat bs < 256 ^ bs.length := by
  have key : ∀ (bs : Bytes) (n : Nat), bs.foldl (fun n b => n * 256 + b.toNat) n < (n + 1) * 256 ^ bs.length := by
    intro bs
    induction bs with
    | nil => intro n; simp
    | cons b bs ih =>
      intro n
      have hb : b.toNat < 256 := b.isLt
      calc (b :: bs).foldl (fun n b => n * 256 + b.toNat) n
          < (n * 256 + b.toNat + 1) * 256 ^ bs.length := ih _
        _ ≤ ((n + 1) * 256) * 256 ^ bs.length := Nat.mul_le_mul_right _ (by omega)
        _ = (n + 1) * 256 ^ (b :: bs).length := by rw [List.length_cons, Nat.pow_succ]; ac_rfl
  simpa [beNat] using key bs 0

theorem fieldNat_lt (bs : Bytes) (o n : Nat) : fieldNat bs o n < 256 ^ n := by
  have hlen : (field bs o n).length ≤ n := List.length_take_le n (bs.drop o)
  exact Nat.lt_of_lt_of_le (beNat_lt _) (Nat.pow_le_pow_right (by decide) hlen)

/-! ## Settings kept -/

/-- Every setting in force is the same in `s'` as in `s`. -/
structure State.KeepsSettings (s s' : State) : Prop where
  entry : ∀ f, (s'.feed f).entry = (s.feed f).entry
  health : ∀ f, (s.health f).sameSettings (s'.health f)
  store : s'.store.settings = s.store.settings
  udpPort : s'.line.udpPort = s.line.udpPort
  interval : s'.monitor.interval = s.monitor.interval
  filter : s'.monitor.filter = s.monitor.filter

namespace State.KeepsSettings

variable {s s' s'' : State}

theorem refl (s : State) : s.KeepsSettings s :=
  ⟨fun _ => rfl, fun _ => Health.sameSettings_refl _, rfl, rfl, rfl, rfl⟩

theorem trans (a : s.KeepsSettings s') (b : s'.KeepsSettings s'') : s.KeepsSettings s'' where
  entry f := (b.entry f).trans (a.entry f)
  health f := Health.sameSettings_trans (a.health f) (b.health f)
  store := b.store.trans a.store
  udpPort := b.udpPort.trans a.udpPort
  interval := b.interval.trans a.interval
  filter := b.filter.trans a.filter

/-- A change outside the feeds, the store port's settings, the line port's and the monitor's keeps the settings. -/
theorem of_feeds (hf : s'.feeds = s.feeds) (hs : s'.store.settings = s.store.settings)
    (hl : s'.line.udpPort = s.line.udpPort) (hm : s'.monitor = s.monitor) : s.KeepsSettings s' where
  entry f := by simp only [State.feed, hf]
  health f := by simp only [State.health, State.feed, hf]; exact Health.sameSettings_refl _
  store := hs
  udpPort := hl
  interval := by rw [hm]
  filter := by rw [hm]

theorem of_sameButLink (h : s.sameButLink s') : s.KeepsSettings s' := by
  obtain ⟨hline, -, hfeeds, -, -, hstore, hmonitor, -⟩ := h
  exact of_feeds hfeeds (by rw [hstore]) (by rw [hline]) hmonitor

theorem of_touches {f : FeedNo} (h : State.Touches f s s') : s.KeepsSettings s' where
  entry g := by
    by_cases hg : g = f
    · subst hg; exact h.entry
    · rw [h.others g hg]
  health g := by
    by_cases hg : g = f
    · subst hg; exact h.health
    · simp only [State.health, h.others g hg]; exact Health.sameSettings_refl _
  store := h.storeSettings
  udpPort := by rw [h.line]
  interval := by rw [h.monitor]
  filter := by rw [h.monitor]

/-- Replacing the records of one feed keeps the settings when its entry and monitor settings stay. -/
theorem of_setFeed (s : State) (f : FeedNo) {x : Feed} (he : x.entry = (s.feed f).entry)
    (hh : (s.health f).sameSettings x.health) : s.KeepsSettings (s.setFeed f x) where
  entry g := by
    by_cases hg : f = g
    · subst hg; simpa using he
    · rw [State.feed_setFeed_ne s x hg]
  health g := by
    by_cases hg : f = g
    · subst hg; simpa [State.health] using hh
    · simp only [State.health, State.feed_setFeed_ne s x hg]; exact Health.sameSettings_refl _
  store := rfl
  udpPort := rfl
  interval := rfl
  filter := rfl

theorem start (s : State) (t : Nat) : s.KeepsSettings (s.start t) := of_feeds rfl rfl rfl rfl

theorem settings (s : State) (v : SettingsStore) : s.KeepsSettings { s with settings := v } :=
  of_feeds rfl rfl rfl rfl

theorem setStarted (s : State) : s.KeepsSettings s.setStarted := of_feeds rfl rfl rfl rfl

theorem waiting (s : State) (cs : List Instr) : s.KeepsSettings { s with pending := cs } :=
  of_feeds rfl rfl rfl rfl

theorem raiseDevice (s : State) (n : Nat) : s.KeepsSettings (s.raiseDevice n) := of_feeds rfl rfl rfl rfl

theorem answer (s : State) (code : Byte) (a : Answer) : s.KeepsSettings (s.answer code a) :=
  of_sameButLink (s.answer_sameButLink code a)

theorem withReply (s : State) (r : Reply) : s.KeepsSettings (s.withReply r) :=
  of_sameButLink (s.withReply_sameButLink r)

theorem arbitrate (s : State) : s.KeepsSettings s.arbitrate := of_touches (s.touches_arbitrate 0)

/-- A fold keeps the settings when each of its steps does. -/
theorem foldl {α : Type} {g : State → α → State} (hg : ∀ (s : State) (x : α), s.KeepsSettings (g s x)) (l : List α)
    (s : State) : s.KeepsSettings (l.foldl g s) := by
  induction l generalizing s with
  | nil => exact refl s
  | cons x xs ih => exact (hg s x).trans (ih _)

/-- Kept settings stay sound. -/
theorem sound (h : s.KeepsSettings s') (hs : s.settingsSound) : s'.settingsSound := by
  obtain ⟨he, hh, hst, hp, hp', hi, hi', hf, hf', hd⟩ := hs
  refine ⟨fun f => by rw [h.entry f]; exact he f, fun f => ?_, by rw [h.store]; exact hst, by rwa [h.udpPort],
    by rwa [h.udpPort], by rwa [h.interval], by rwa [h.interval], by rwa [h.filter], by rwa [h.filter], fun f g => ?_⟩
  · obtain ⟨hloss, hlate, hpatch, -, hc⟩ := h.health f
    simp only [Health.settingsSound, hloss, hlate, hpatch, hc]
    exact hh f
  · rw [h.entry f, h.entry g]; exact hd f g

/-! ## Commands that set nothing -/

theorem onPath (s : State) (f : FeedNo) (p : Fin 4) (g : PathAcc → PathAcc) : s.KeepsSettings (s.onPath f p g) :=
  of_setFeed s f rfl (Health.sameSettings_refl _)

theorem takePacket (s : State) (f : FeedNo) (p : Packet) : s.KeepsSettings (s.takePacket f p) := by
  unfold State.takePacket
  dsimp only
  split
  · exact of_setFeed s f rfl (Health.sameSettings_refl _)
  · split
    · exact of_setFeed s f rfl (Health.sameSettings_refl _)
    · split
      · exact (onPath s f _ _).trans (onPath _ f _ _)
      · exact (onPath s f _ _).trans (of_touches (State.touches_takeFragment _ f _))

theorem takePayload (s : State) (u : Bytes) : s.KeepsSettings (s.takePayload u) := by
  unfold State.takePayload
  split
  · exact of_feeds rfl rfl rfl rfl
  · split
    · exact of_feeds rfl rfl rfl rfl
    · exact takePacket s _ _

theorem ethernetFrame {s t : State} {at' : Nat} {frame : Bytes} (h : execEthernetFrame at' frame s = .next t) :
    s.KeepsSettings t := by
  unfold execEthernetFrame at h
  dsimp only at h
  refine (start s at').trans ?_
  split at h
  · injection h with h; subst h; exact of_feeds rfl rfl rfl rfl
  · split at h <;> (injection h with h; subst h)
    · exact of_feeds rfl rfl rfl rfl
    · exact of_feeds rfl rfl rfl rfl
    · refine trans ?_ (takePayload _ _)
      exact of_feeds rfl rfl rfl rfl

theorem deadlineExpiry {s t : State} {at' : Nat} {f : FeedNo} (h : execDeadlineExpiry at' f s = .next t) :
    s.KeepsSettings t := by
  unfold execDeadlineExpiry at h
  dsimp only at h
  refine (start s at').trans ?_
  split at h
  · injection h with h; subst h; exact refl _
  · split at h <;> (injection h with h; subst h)
    · exact of_touches (State.touches_chain _ f)
    · exact refl _

theorem publishTimerExpiry {s t : State} {at' : Nat} {f : FeedNo} (h : execPublishTimerExpiry at' f s = .next t) :
    s.KeepsSettings t := by
  unfold execPublishTimerExpiry at h
  dsimp only at h
  refine (start s at').trans ?_
  split at h
  · injection h with h; subst h; exact refl _
  · split at h <;> (injection h with h; subst h)
    · exact (of_touches (State.touches_setTake _ f _)).trans (of_touches (State.touches_timerTrigger _ f))
    · exact refl _

theorem endTag (s : State) (l : LaneNo) (g : Byte) (r : Issued) (c : Lane → Lane) :
    s.KeepsSettings (s.endTag l g r c) := of_feeds rfl rfl rfl rfl

theorem completion {s t : State} {at' : Nat} {l : LaneNo} {e g r p : Byte}
    (h : execCompletion at' l e g r p s = .next t) : s.KeepsSettings t := by
  unfold execCompletion at h
  dsimp only at h
  refine (start s at').trans ?_
  split at h <;> (injection h with h; subst h)
  · refine trans (trans ?_ (of_touches (State.touches_tellOk _ _))) (arbitrate _)
    exact endTag _ _ _ _ _
  · refine trans (trans ?_ (of_touches (State.touches_tellFailed _ _))) (arbitrate _)
    exact endTag _ _ _ _ _
  · refine trans (trans ?_ (of_touches (State.touches_tellLate _ _))) (arbitrate _)
    exact endTag _ _ _ _ _
  · exact of_feeds rfl rfl rfl rfl

theorem storeTimeout {s t : State} {at' : Nat} {l : LaneNo} {g : TagNo} (h : execStoreTimeout at' l g s = .next t) :
    s.KeepsSettings t := by
  unfold execStoreTimeout at h
  dsimp only at h
  refine (start s at').trans ?_
  split at h
  · split at h <;> (injection h with h; subst h)
    · refine trans ?_ (arbitrate _)
      split
      · refine trans (trans ?_ (of_touches (State.touches_tellTimeout _ _))) (raiseDevice _ _)
        exact of_feeds rfl rfl rfl rfl
      · refine trans ?_ (of_touches (State.touches_tellTimeout _ _))
        exact of_feeds rfl rfl rfl rfl
    · exact refl _
  · injection h with h; subst h; exact refl _

theorem settlingEnd {s t : State} {at' : Nat} (h : execSettlingEnd at' s = .next t) : s.KeepsSettings t := by
  unfold execSettlingEnd at h
  dsimp only at h
  refine (start s at').trans ?_
  split at h
  · split at h <;> (injection h with h; subst h)
    · refine trans ?_ (arbitrate _)
      exact of_feeds rfl rfl rfl rfl
    · exact refl _
  · injection h with h; subst h; exact refl _

end State.KeepsSettings

/-- Clearing latched flags replaces no threshold, select or action set. -/
theorem Health.clearLatched_sameSettings (h : Health) (named : BitVec 17) :
    h.sameSettings (h.clearLatched named) := by
  unfold Health.clearLatched
  refine ⟨rfl, rfl, rfl, rfl, fun i => ?_⟩
  simp only [Fin.getElem_fin, Vector.getElem_ofFn]
  split <;> exact ⟨rfl, rfl⟩

/-- An interval end replaces no threshold, select or action set. -/
theorem Feed.judged_sameSettings (x : Feed) (filter : Nat) : x.health.sameSettings (x.judged filter) := by
  unfold Feed.judged
  split
  · exact ⟨rfl, rfl, rfl, rfl, fun i => by simp [Condition.judge]⟩
  · exact ⟨rfl, rfl, rfl, rfl, fun i => by simp [Condition.idle]⟩

namespace State.KeepsSettings

theorem intervalEnd {s t : State} {at' : Nat} (h : execIntervalEnd at' s = .next t) : s.KeepsSettings t := by
  unfold execIntervalEnd at h
  dsimp only at h
  refine (start s at').trans ?_
  split at h <;> (injection h with h; subst h)
  · exact
    { entry := fun f => by simp [State.feed, Feed.afterInterval, Feed.closeInterval]
      health := fun f => by
        simpa [State.health, State.feed, Feed.afterInterval] using Feed.judged_sameSettings _ _
      store := rfl, udpPort := rfl, interval := rfl, filter := rfl }
  · exact refl _

theorem spiExchange {s t : State} {at' bits : Nat} {mosi : Bytes} (h : execSpiExchange at' bits mosi s = .next t) :
    s.KeepsSettings t := by
  unfold execSpiExchange at h
  dsimp only at h
  refine (start s at').trans ?_
  split at h
  · injection h with h; subst h; exact of_feeds rfl rfl rfl rfl
  · split at h <;> (injection h with h; subst h)
    · exact of_feeds rfl rfl rfl rfl
    · exact (of_feeds rfl rfl rfl rfl).trans (of_sameButLink (State.takeRequest_sameButLink _ _))

theorem nextPart {s t : State} {at' : Nat} (h : execNextPart at' s = .next t) : s.KeepsSettings t := by
  unfold execNextPart at h
  dsimp only at h
  refine (start s at').trans ?_
  split at h
  · injection h with h; subst h; exact refl _
  · split at h
    · split at h <;> (injection h with h; subst h)
      · exact of_feeds rfl rfl rfl rfl
      · exact refl _
      · exact answer _ _ _
    · injection h with h; subst h; exact refl _

theorem saveOn (s : State) (v : Save) (ok : Bool) : s.KeepsSettings (s.saveOn v ok) := by
  unfold State.saveOn
  split
  · exact of_feeds rfl rfl rfl rfl
  · refine trans ?_ (raiseDevice _ _)
    exact of_feeds rfl rfl rfl rfl

theorem regionWrite {s t : State} {at' : Nat} {a : Bool} {held : Option Bytes}
    (h : execRegionWrite at' a held s = .next t) : s.KeepsSettings t := by
  unfold execRegionWrite at h
  dsimp only at h
  refine (start s at').trans ?_
  split at h <;> (injection h with h; subst h)
  · exact refl _
  · refine trans ?_ (saveOn _ _ _)
    exact of_feeds rfl rfl rfl rfl

/-! ## Requests that set nothing -/

/-- A request whose own step keeps the settings keeps them. -/
theorem carryOut {s t : State} {code : Byte} {at' : Nat} {g : State → Bytes → State × Answer}
    (hg : ∀ (s : State) (b : Bytes), s.KeepsSettings (g s b).1) (h : carryOut code at' s g = .next t) :
    s.KeepsSettings t := by
  refine (start s at').trans ?_
  obtain rfl | ⟨o, rfl⟩ | ⟨b, rfl⟩ := carryOut_cases h
  · exact refl _
  · exact withReply _ _
  · exact (hg _ b).trans (answer _ _ _)

/-- A request that names a feed keeps the settings when it keeps them for every feed. -/
theorem onFeed {s : State} {b : Bytes} {g : FeedNo → State × Answer} (hg : ∀ f, s.KeepsSettings (g f).1) :
    s.KeepsSettings (onFeed s b g).1 := by
  unfold Machine.onFeed
  split
  · exact refl s
  · exact hg _

theorem readFeedStep (s : State) (b : Bytes) : s.KeepsSettings (readFeedStep s b).1 := by
  unfold Machine.readFeedStep; split <;> exact refl s

theorem feedStatusStep (s : State) (b : Bytes) : s.KeepsSettings (feedStatusStep s b).1 := by
  unfold Machine.feedStatusStep; split <;> exact refl s

theorem arm (s : State) (f : FeedNo) (a : ArmArgs) (r : Raster) (p : Profile) : s.KeepsSettings (s.arm f a r p) := by
  refine trans ?_ (of_setFeed _ f rfl (Health.sameSettings_refl _))
  exact of_feeds rfl rfl rfl rfl

theorem armTakeStep (s : State) (b : Bytes) : s.KeepsSettings (armTakeStep s b).1 := by
  unfold Machine.armTakeStep
  split
  · exact refl s
  · split
    · exact refl s
    · split
      · exact refl s
      · exact arm s _ _ _ _

theorem stopRecording (s : State) (f : FeedNo) : s.KeepsSettings (s.stopRecording f) := by
  unfold State.stopRecording
  dsimp only
  split
  · exact of_touches (((State.touches_flush s f).trans (State.touches_setWindow _ f _)).trans
      (State.touches_enterDraining _ f _))
  · exact of_touches (State.touches_flush s f)

theorem stopTakeStep (s : State) (b : Bytes) : s.KeepsSettings (stopTakeStep s b).1 :=
  onFeed fun f => by
    split
    · exact stopRecording s f
    · exact of_touches (State.touches_enterDraining s f _)
    · exact refl s

theorem enterAborting (s : State) (f : FeedNo) : s.KeepsSettings (s.enterAborting f).arbitrate :=
  (of_touches (State.touches_enterAborting s f)).trans (arbitrate _)

theorem abortArmed (s : State) (f : FeedNo) : s.KeepsSettings (s.abortArmed f) :=
  of_touches (((State.touches_setTake s f _).trans (State.touches_endTake _ f _)).trans (State.touches_endBrowse _ f _))

theorem abortTakeStep (s : State) (b : Bytes) : s.KeepsSettings (abortTakeStep s b).1 :=
  onFeed fun f => by
    split <;> dsimp only
    · exact abortArmed s f
    · exact enterAborting s f
    · exact enterAborting s f
    · exact refl s

theorem releaseEnded (s : State) (f : FeedNo) : s.KeepsSettings (releaseEnded s f).1 := by
  unfold Machine.releaseEnded
  split
  · exact refl s
  · exact of_touches ((State.touches_emptySources s f).trans (State.touches_setTake _ f _))

theorem releaseTakeStep (s : State) (b : Bytes) : s.KeepsSettings (releaseTakeStep s b).1 :=
  onFeed fun f => by
    split
    · exact releaseEnded s f
    · exact releaseEnded s f
    · exact releaseEnded s f
    · exact refl s

theorem takeStatusStep (s : State) (b : Bytes) : s.KeepsSettings (takeStatusStep s b).1 :=
  onFeed fun f => by split <;> exact refl s

theorem flushIndex (s : State) (f : FeedNo) : s.KeepsSettings (s.flushIndex f).2 := by
  unfold State.flushIndex
  split
  · exact of_touches ((State.touches_snapshot s f _).trans (State.touches_snapshot _ f _))
  · exact of_touches (State.touches_snapshot s f _)

theorem flushIndexStep (s : State) (b : Bytes) : s.KeepsSettings (flushIndexStep s b).1 :=
  onFeed fun f => by
    split
    · exact flushIndex s f
    · exact refl s

theorem readConditionsStep (s : State) (b : Bytes) : s.KeepsSettings (readConditionsStep s b).1 := by
  unfold Machine.readConditionsStep; split <;> exact refl s

theorem clearConditionsStep (s : State) (b : Bytes) : s.KeepsSettings (clearConditionsStep s b).1 := by
  unfold Machine.clearConditionsStep
  split <;> dsimp only
  · exact of_touches (State.touches_setHealth s _ (Health.clearLatched_sameSettings _ _))
  · exact refl s

theorem clearNoticesStep (s : State) (b : Bytes) : s.KeepsSettings (clearNoticesStep s b).1 := by
  unfold Machine.clearNoticesStep
  split
  · exact refl s
  · exact of_feeds rfl rfl rfl rfl

theorem setNoticeEnablesStep (s : State) (b : Bytes) : s.KeepsSettings (setNoticeEnablesStep s b).1 := by
  unfold Machine.setNoticeEnablesStep
  split
  · exact refl s
  · exact of_feeds rfl rfl rfl rfl

theorem saveSettingsStep (s : State) (b : Bytes) : s.KeepsSettings (saveSettingsStep s b).1 := by
  unfold Machine.saveSettingsStep
  split
  · exact refl s
  · exact of_feeds rfl rfl rfl rfl

theorem loseBrowse (s : State) (i : Issued) (flying : Bool) : s.KeepsSettings (s.loseBrowse i flying) := by
  unfold State.loseBrowse
  split
  · dsimp only
    split
    · exact of_touches ((State.touches_onBrowseTotals s _ _).trans (State.touches_clearBusy _ _))
    · exact of_touches (State.touches_clearBusy s _)
  · exact refl s

theorem takeAfterReset (flying : List Issued) (s : State) (f : FeedNo) :
    s.KeepsSettings (State.takeAfterReset flying s f) := by
  unfold State.takeAfterReset
  dsimp only
  split
  · exact of_touches ((State.touches_failTake s f _).trans (State.touches_finishChecks _ f))
  · exact of_touches (State.touches_finishChecks s f)

theorem resetStorePort (s : State) : s.KeepsSettings s.resetStorePort := by
  unfold State.resetStorePort
  dsimp only
  refine trans ?_ (arbitrate _)
  refine trans ?_ (foldl (takeAfterReset _) _ _)
  refine trans ?_ (foldl (fun s i => loseBrowse s i false) _ _)
  refine trans ?_ (foldl (fun s i => loseBrowse s i true) _ _)
  exact of_feeds rfl rfl rfl rfl

theorem resetStoreStep (s : State) (b : Bytes) : s.KeepsSettings (resetStoreStep s b).1 := by
  unfold Machine.resetStoreStep; dsimp only; exact resetStorePort s

end State.KeepsSettings
/-! ## SET FEED (R4, R5) -/

/-- A clamped entry that keeps a path when enabled is sound (R4, R5). -/
theorem FeedEntry.clamped_sound {e : FeedEntry} (h : e.enable = true → e.paths ≠ 0) : e.clamped.sound :=
  ⟨le_clamp (by decide) _, clamp_le (by decide) _, clamp_le (Nat.zero_le 1024) _, le_clamp (by decide) _,
    clamp_le (by decide) _, h⟩

theorem State.tagClashes_eq_false {s : State} {f : FeedNo} {e : FeedEntry} :
    s.tagClashes f e = false ↔
      (e.enable = true → ∀ g, g ≠ f → (s.feed g).entry.enable = true → (s.feed g).entry.tag ≠ e.tag) := by
  simp [State.tagClashes]

theorem State.anyTake_eq_false {s : State} : s.anyTake = false ↔ ∀ g, (s.take g).state = .idle := by
  simp [State.anyTake, State.idle]

/-- R5 steps 2 to 5: a SET FEED is not refused exactly when none of the four refusals is met. -/
theorem State.refusesFeed_eq_none {s : State} {f : FeedNo} {a : SetFeedArgs} :
    s.refusesFeed f a = none ↔
      (s.take f).state = .idle ∧ (a.line ≠ none → ∀ g, (s.take g).state = .idle) ∧
      (a.entry.enable = true → a.entry.paths ≠ 0) ∧ s.tagClashes f a.entry = false := by
  rw [← State.anyTake_eq_false]
  unfold State.refusesFeed State.idle
  split
  · next hbusy => exact iff_of_false nofun fun hn => by rw [hn.1] at hbusy; exact absurd hbusy (by decide)
  · next hidle =>
    split
    · next hline =>
      obtain ⟨hl, ht⟩ := Bool.and_eq_true_iff.mp hline
      exact iff_of_false nofun fun hn => Bool.false_ne_true ((hn.2.1 (Option.isSome_iff_ne_none.mp hl)).symm.trans ht)
    · next hline =>
      split
      · next hpaths =>
        obtain ⟨he, hp⟩ := Bool.and_eq_true_iff.mp hpaths
        exact iff_of_false nofun fun hn => hn.2.2.1 he (beq_iff_eq.mp hp)
      · next hpaths =>
        split
        · next htag => exact iff_of_false nofun fun hn => Bool.false_ne_true (hn.2.2.2.symm.trans htag)
        · next htag =>
          refine iff_of_true rfl ⟨?_, fun hl => ?_, fun he hp => ?_, Bool.eq_false_iff.mpr htag⟩
          · exact Decidable.byContradiction fun h => hidle (by rw [beq_false_of_ne h]; rfl)
          · exact Bool.eq_false_iff.mpr fun ht =>
              hline (Bool.and_eq_true_iff.mpr ⟨Option.isSome_iff_ne_none.mpr hl, ht⟩)
          · exact hpaths (Bool.and_eq_true_iff.mpr ⟨he, beq_iff_eq.mpr hp⟩)

/-- A sound entry whose tag no other enabled entry holds, and a line part with a port in range, keep the settings
sound. -/
theorem State.setEntry_settingsSound {s : State} {f : FeedNo} {e : FeedEntry} {l : Option (Word × Nat)}
    (hs : s.settingsSound) (he : e.sound) (htag : s.tagClashes f e = false)
    (hl : ∀ p ∈ l, 1 ≤ p.2 ∧ p.2 ≤ 65535) : (s.setEntry f e l).settingsSound := by
  obtain ⟨hent, hh, hst, hp, hp', hi, hi', hf, hf', hd⟩ := hs
  have hfeed : ∀ g, (s.setEntry f e l).feed g = if f = g then { s.feed f with entry := e } else s.feed g := by
    rcases l with _ | ⟨address, port⟩ <;> exact fun g => State.feed_setFeed s f g _
  have hport : 1 ≤ (s.setEntry f e l).line.udpPort ∧ (s.setEntry f e l).line.udpPort ≤ 65535 := by
    rcases l with _ | ⟨address, port⟩
    · exact ⟨hp, hp'⟩
    · exact hl (address, port) rfl
  have hstore : (s.setEntry f e l).store = s.store ∧ (s.setEntry f e l).monitor = s.monitor := by
    rcases l with _ | ⟨address, port⟩ <;> exact ⟨rfl, rfl⟩
  have hfree := State.tagClashes_eq_false.mp htag
  refine ⟨fun g => ?_, fun g => ?_, by rw [hstore.1]; exact hst, hport.1, hport.2, by rwa [hstore.2],
    by rwa [hstore.2], by rwa [hstore.2], by rwa [hstore.2], fun g g' hne hg hg' => ?_⟩
  · rw [hfeed]; split
    · exact he
    · exact hent g
  · rw [State.health, hfeed]; split
    · exact hh f
    · exact hh g
  · rw [hfeed] at hg hg'
    rw [hfeed, hfeed]
    by_cases h : f = g
    · subst h
      simp only [if_true, if_neg hne] at hg hg' ⊢
      exact (hfree hg g' hne.symm hg').symm
    · by_cases h' : f = g'
      · subst h'
        simp only [if_true, if_neg h] at hg hg' ⊢
        exact hfree hg' g hne hg
      · simp only [if_neg h, if_neg h'] at hg hg' ⊢
        exact hd g g' hne hg hg'

theorem setFeedStep_settingsSound {s : State} (hs : s.settingsSound) (b : Bytes) :
    (setFeedStep s b).1.settingsSound := by
  unfold setFeedStep
  split
  · exact hs
  · rename_i a _
    split
    · exact hs
    · rename_i f _
      split
      · exact hs
      · rename_i h
        obtain ⟨-, -, hpaths, htag⟩ := State.refusesFeed_eq_none.mp h
        refine State.setEntry_settingsSound hs (FeedEntry.clamped_sound hpaths) htag fun p hp => ?_
        obtain ⟨l, -, rfl⟩ := Option.map_eq_some_iff.mp hp
        exact ⟨le_clamp (by decide) l.2, clamp_le (by decide) l.2⟩

/-! ## SET MONITOR and SET ACTIONS (R150, R157) -/

/-- Replacing every feed's records, entries kept, and the monitor's settings keeps the settings sound when the new
thresholds and the new monitor settings are. -/
theorem State.settingsSound_of_health {s s' : State} (hs : s.settingsSound)
    (he : ∀ f, (s'.feed f).entry = (s.feed f).entry) (hh : ∀ f, (s'.health f).settingsSound)
    (hst : s'.store = s.store) (hl : s'.line = s.line) (hi : 10 ≤ s'.monitor.interval ∧ s'.monitor.interval ≤ 1000)
    (hf : 1 ≤ s'.monitor.filter ∧ s'.monitor.filter ≤ 8) : s'.settingsSound := by
  obtain ⟨hent, -, hstore, hp, hp', -, -, -, -, hd⟩ := hs
  exact ⟨fun f => by rw [he]; exact hent f, hh, by rwa [hst], by rwa [hl], by rwa [hl], hi.1, hi.2, hf.1, hf.2,
    fun f g => by rw [he, he]; exact hd f g⟩

theorem Health.withSettings_sound {h : Health} (hh : h.settingsSound) (a : MonitorFeedArgs) :
    (h.withSettings a.clamped).settingsSound := by
  obtain ⟨-, -, -, -, -, -, hd⟩ := hh
  exact ⟨le_clamp (by decide) _, clamp_le (by decide) _, le_clamp (by decide) _, clamp_le (by decide) _,
    le_clamp (by decide) _, clamp_le (by decide) _, hd⟩

@[simp] theorem MonitorDevice.setInterval_interval (m : MonitorDevice) (ms now : Nat) :
    (m.setInterval ms now).interval = ms := by
  unfold MonitorDevice.setInterval
  split
  · exact Eq.symm ‹_›
  · rfl

/-- R150: clamped arguments keep the settings sound. -/
theorem State.setMonitorTo_settingsSound {s : State} (hs : s.settingsSound) (a : MonitorArgs) :
    (s.setMonitorTo a.clamped).settingsSound := by
  refine State.settingsSound_of_health hs (fun f => ?_) (fun f => ?_) rfl rfl ?_
    ⟨le_clamp (by decide) a.filter, clamp_le (by decide) a.filter⟩
  · simp [State.setMonitorTo, State.feed]
  · have h := Health.withSettings_sound (hs.2.1 f) a.feeds[f]
    simpa [State.setMonitorTo, State.health, State.feed, MonitorArgs.clamped] using h
  · simp only [State.setMonitorTo, MonitorDevice.setInterval_interval]
    exact ⟨le_clamp (by decide) _, clamp_le (by decide) _⟩

theorem setMonitorStep_settingsSound {s : State} (hs : s.settingsSound) (b : Bytes) :
    (setMonitorStep s b).1.settingsSound := by
  unfold setMonitorStep
  split
  · exact hs
  · exact State.setMonitorTo_settingsSound hs _

/-- R157's test over the condition numbers. -/
theorem dropMisplaced_eq_false {v : Vector (Select × Actions) 17} :
    dropMisplaced v = false ↔ ∀ i : Fin 17, 8 ≤ i.val → v[i].2.drop = false := by
  have hlen : (v.toList.drop 8).length = 9 := by simp
  simp only [dropMisplaced, List.any_eq_false, List.mem_iff_getElem, Bool.not_eq_true]
  constructor
  · intro h i hi
    refine h _ ⟨i.val - 8, by omega, ?_⟩
    simp [show 8 + (i.val - 8) = i.val by omega]
  · rintro h x ⟨n, hn, rfl⟩
    have hx := h ⟨8 + n, by omega⟩ (Nat.le_add_right 8 n)
    simpa using hx

theorem Health.withActions_sound {h : Health} {v : Vector (Select × Actions) 17} (hh : h.settingsSound)
    (hv : dropMisplaced v = false) : (h.withActions v).settingsSound := by
  obtain ⟨h1, h2, h3, h4, h5, h6, -⟩ := hh
  unfold Health.withActions
  refine ⟨h1, h2, h3, h4, h5, h6, fun i hi => ?_⟩
  simpa using dropMisplaced_eq_false.mp hv i hi

/-- Replacing one feed's health records keeps the settings sound when the new ones are. -/
theorem State.setHealth_settingsSound {s : State} {f : FeedNo} {h : Health} (hs : s.settingsSound)
    (hh : h.settingsSound) : (s.setHealth f h).settingsSound := by
  obtain ⟨-, hhealth, -, -, -, hi, hi', hf, hf', -⟩ := id hs
  refine State.settingsSound_of_health hs (fun g => ?_) (fun g => ?_) rfl rfl ⟨hi, hi'⟩ ⟨hf, hf'⟩
  all_goals by_cases hg : f = g
  · subst hg; simp
  · rw [State.feed_setHealth_ne s h hg]
  · subst hg; simpa using hh
  · rw [State.health, State.feed_setHealth_ne s h hg]; exact hhealth g

theorem setActionsStep_settingsSound {s : State} (hs : s.settingsSound) (b : Bytes) :
    (setActionsStep s b).1.settingsSound := by
  unfold setActionsStep
  split
  · rename_i f v _ _
    split
    · exact hs
    · rename_i hv
      exact State.setHealth_settingsSound hs (Health.withActions_sound (hs.2.1 f) (by simpa using hv))
  · exact hs

/-! ## SET STORE (R131) -/

/-- Lane sets that SET STORE's body names are not empty (R191). -/
theorem parseStore_lanes {b : Bytes} {v : StoreSettings} (h : parseStore b = some v) :
    v.indexLanes ≠ 0 ∧ v.essenceLanes ≠ 0 ∧ v.browseLanes ≠ 0 := by
  have lane : ∀ n, 1 ≤ n ∧ n < 4 → BitVec.ofNat 2 n ≠ 0 := by
    rintro n ⟨h1, h2⟩ h0
    have := congrArg BitVec.toNat h0
    simp at this; omega
  unfold parseStore at h
  split at h
  · cases h
  · split at h
    · rename_i hl
      cases h
      simp only [List.all_eq_true, List.mem_range, decide_eq_true_eq] at hl
      exact ⟨lane _ (hl 0 (by decide)), lane _ (hl 1 (by decide)), lane _ (hl 2 (by decide))⟩
    · cases h

theorem StoreSettings.clamped_sound {v : StoreSettings}
    (h : v.indexLanes ≠ 0 ∧ v.essenceLanes ≠ 0 ∧ v.browseLanes ≠ 0) : v.clamped.sound :=
  ⟨h.1, h.2.1, h.2.2, le_clamp (by decide) _, clamp_le (by decide) _, le_clamp (by decide) _,
    clamp_le (by decide) _⟩

theorem State.setStoreTo_settingsSound {s : State} {v : StoreSettings} (hs : s.settingsSound) (hv : v.sound) :
    (s.setStoreTo v).settingsSound := by
  obtain ⟨hent, hh, -, hrest⟩ := hs
  exact ⟨hent, hh, hv, hrest⟩

theorem setStoreStep_settingsSound {s : State} (hs : s.settingsSound) (b : Bytes) :
    (setStoreStep s b).1.settingsSound := by
  unfold setStoreStep
  split
  · exact hs
  · rename_i v hv
    exact (State.KeepsSettings.arbitrate _).sound
      (State.setStoreTo_settingsSound hs (StoreSettings.clamped_sound (parseStore_lanes hv)))

/-! ## The settings regions (R185, R192) -/

theorem FeedEntry.sound_of_clamped_eq {e : FeedEntry} (h : e.clamped = e) (hp : e.enable = true → e.paths ≠ 0) :
    e.sound := by
  rw [← h]; exact FeedEntry.clamped_sound hp

/-- R185 test 4, FEEDS: enabled entries have a path and distinct stream tags. -/
theorem entriesClash_eq_false {v : Vector FeedEntry 8} :
    entriesClash v = false ↔ ∀ i : FeedNo, v[i].enable = true →
      v[i].paths ≠ 0 ∧ ∀ j : FeedNo, j ≠ i → v[j].enable = true → v[j].tag ≠ v[i].tag := by
  simp [entriesClash]

/-- What FEEDS loads is sound: every entry, the tags, the port number. -/
theorem parseFeeds_sound {bs : Bytes} {v : FeedsSettings} (h : parseFeeds bs = some v) :
    (∀ i : FeedNo, v.entries[i].sound) ∧ 1 ≤ v.port ∧ v.port ≤ 65535 ∧
    ∀ i j : FeedNo, i ≠ j → v.entries[i].enable = true → v.entries[j].enable = true →
      v.entries[i].tag ≠ v.entries[j].tag := by
  unfold parseFeeds at h
  split at h
  · split at h
    · cases h
    · rename_i es _
      split at h
      · rename_i hok
        cases h
        simp only [Bool.and_eq_true, List.all_eq_true, beq_iff_eq, Bool.not_eq_true', bne_iff_ne] at hok
        obtain ⟨⟨hclamped, hclash⟩, hport⟩ := hok
        have hc := entriesClash_eq_false.mp hclash
        refine ⟨fun i => FeedEntry.sound_of_clamped_eq (hclamped _ (by simp)) fun he => (hc i he).1,
          Nat.one_le_iff_ne_zero.mpr hport, Nat.le_of_lt_succ (fieldNat_lt bs 104 2), fun i j hne hi hj => ?_⟩
        exact ((hc i hi).2 j hne.symm hj).symm
      · cases h
  · cases h

/-- What MONITOR loads is already clamped, and DROP stands in no condition numbered 8..16. -/
theorem parseMonitorRegion_sound {bs : Bytes} {v : MonitorSettings} (h : parseMonitorRegion bs = some v) :
    v.args.clamped = v.args ∧ ∀ i : FeedNo, dropMisplaced v.actions[i] = false := by
  unfold parseMonitorRegion at h
  split at h
  · split at h
    · split at h
      · rename_i hok
        cases h
        simp only [Bool.and_eq_true, List.all_eq_true, beq_iff_eq, Bool.not_eq_true'] at hok
        exact ⟨hok.1, fun i => hok.2 _ (by simp)⟩
      · cases h
    · cases h
  · cases h

/-- What STORE loads is sound. -/
theorem parseStoreRegion_sound {bs : Bytes} {v : StoreSettings} (h : parseStoreRegion bs = some v) : v.sound := by
  unfold parseStoreRegion at h
  split at h
  · split at h
    · rename_i w hw
      split at h
      · rename_i hc
        cases h
        rw [← beq_iff_eq.mp hc]; exact StoreSettings.clamped_sound (parseStore_lanes hw)
      · cases h
    · cases h
  · cases h

theorem State.loadFeeds_settingsSound {s : State} {v : FeedsSettings} {bs : Bytes} (hs : s.settingsSound)
    (h : parseFeeds bs = some v) : (s.loadFeeds v).settingsSound := by
  obtain ⟨hent, hport, hport', htag⟩ := parseFeeds_sound h
  obtain ⟨-, hh, hst, -, -, hrest⟩ := hs
  have hentry : ∀ f, ((s.loadFeeds v).feed f).entry = v.entries[f] := fun f => by simp [State.loadFeeds, State.feed]
  have hhealth : ∀ f, (s.loadFeeds v).health f = s.health f := fun f => by
    simp [State.loadFeeds, State.health, State.feed]
  exact ⟨fun f => by rw [hentry]; exact hent f, fun f => by rw [hhealth]; exact hh f, hst, hport, hport',
    hrest.1, hrest.2.1, hrest.2.2.1, hrest.2.2.2.1, fun f g => by rw [hentry, hentry]; exact htag f g⟩

theorem State.loadMonitor_settingsSound {s : State} {v : MonitorSettings} {bs : Bytes} (hs : s.settingsSound)
    (h : parseMonitorRegion bs = some v) : (s.loadMonitor v).settingsSound := by
  obtain ⟨hargs, hactions⟩ := parseMonitorRegion_sound h
  have hset : (s.setMonitorTo v.args).settingsSound := by
    rw [← hargs]; exact State.setMonitorTo_settingsSound hs v.args
  obtain ⟨-, hh, -, -, -, hi, hi', hf, hf', -⟩ := id hset
  refine State.settingsSound_of_health hset (fun f => ?_) (fun f => ?_) rfl rfl ⟨hi, hi'⟩ ⟨hf, hf'⟩
  · simp [State.loadMonitor, State.feed]
  · have hf := Health.withActions_sound (hh f) (hactions f)
    simpa [State.loadMonitor, State.health, State.feed] using hf

theorem State.judgeFeeds_settingsSound {s : State} (hs : s.settingsSound) (bs : Bytes) :
    (s.judgeFeeds bs).settingsSound := by
  unfold State.judgeFeeds
  dsimp only
  split
  · exact (State.KeepsSettings.settings _ _).sound (State.loadFeeds_settingsSound hs ‹_›)
  · exact (State.KeepsSettings.settings _ _).sound hs

theorem State.judgeMonitor_settingsSound {s : State} (hs : s.settingsSound) (bs : Bytes) :
    (s.judgeMonitor bs).settingsSound := by
  unfold State.judgeMonitor
  dsimp only
  split
  · exact (State.KeepsSettings.settings _ _).sound (State.loadMonitor_settingsSound hs ‹_›)
  · exact (State.KeepsSettings.settings _ _).sound hs

theorem State.judgeStore_settingsSound {s : State} (hs : s.settingsSound) (bs : Bytes) :
    (s.judgeStore bs).settingsSound := by
  unfold State.judgeStore
  dsimp only
  split
  · exact ((State.KeepsSettings.settings _ _).trans (.setStarted _)).sound
      (State.setStoreTo_settingsSound hs (parseStoreRegion_sound ‹_›))
  · exact ((State.KeepsSettings.settings _ _).trans (.setStarted _)).sound hs

theorem execRegionRead_settingsSound {s t : State} {at' : Nat} {answers : Bool} (hs : s.settingsSound)
    (h : execRegionRead at' answers s = .next t) : t.settingsSound := by
  have hstart := (State.KeepsSettings.start s at').sound hs
  unfold execRegionRead at h
  dsimp only at h
  split at h <;> (injection h with h; subst h)
  · exact hstart
  · exact State.judgeFeeds_settingsSound hstart _
  · exact State.judgeMonitor_settingsSound hstart _
  · exact State.judgeStore_settingsSound hstart _

/-! ## After reset -/

/-- Right after reset, whatever the flash, DRAM and contexts hold, every feed's records are the after-reset ones. -/
@[simp] theorem State.afterReset_feed (cause : ResetCause) (dram contexts flash : List Host.Cell) (free : FreeValues)
    (pending : List Instr) (f : FeedNo) :
    (State.afterReset cause dram contexts flash free pending).feed f = Feed.reset := by
  simp [State.feed, State.afterReset]

@[simp] theorem State.resetPart_feed (s : State) (cause : ResetCause) (cut : Option ExchangeCut) (f : FeedNo) :
    (s.resetPart cause cut).feed f = Feed.reset :=
  State.afterReset_feed cause s.cells.bytes s.pool.bytes (s.settings.flashAtReset s.free.count)
    { s.free with count := s.free.count + 1 } s.pending f

theorem FeedEntry.reset_sound : FeedEntry.reset.sound := by unfold FeedEntry.sound; decide

theorem StoreSettings.reset_sound : StoreSettings.reset.sound := by unfold StoreSettings.sound; decide

theorem Health.reset_settingsSound : Health.reset.settingsSound := by
  refine ⟨by decide, by decide, by decide, by decide, by decide, by decide, fun i _ => ?_⟩
  simp [Health.reset, Condition.default]

/-- The settings after reset are sound (R4, R131, R150). -/
theorem State.afterReset_settingsSound (cause : ResetCause) (dram contexts flash : List Host.Cell) (free : FreeValues)
    (pending : List Instr) : (State.afterReset cause dram contexts flash free pending).settingsSound := by
  have hport : 1 ≤ LinePort.reset.udpPort ∧ LinePort.reset.udpPort ≤ 65535 := by decide
  have hmonitor : 10 ≤ MonitorDevice.reset.interval ∧ MonitorDevice.reset.interval ≤ 1000 ∧
      1 ≤ MonitorDevice.reset.filter ∧ MonitorDevice.reset.filter ≤ 8 := by decide
  refine ⟨fun f => ?_, fun f => ?_, StoreSettings.reset_sound, hport.1, hport.2, hmonitor.1, hmonitor.2.1,
    hmonitor.2.2.1, hmonitor.2.2.2, fun f g _ hf => ?_⟩
  · rw [State.afterReset_feed]; exact FeedEntry.reset_sound
  · rw [State.health, State.afterReset_feed]; exact Health.reset_settingsSound
  · rw [State.afterReset_feed] at hf; cases hf

theorem State.resetPart_settingsSound (s : State) (cause : ResetCause) (cut : Option ExchangeCut) :
    (s.resetPart cause cut).settingsSound :=
  State.KeepsSettings.sound (s := State.afterReset cause s.cells.bytes s.pool.bytes _ s.free s.pending)
    (.of_feeds rfl rfl rfl rfl) (State.afterReset_settingsSound _ _ _ s.settings.flash _ _)

theorem execReset_settingsSound {s t : State} {at' : Nat} {cut : Option ExchangeCut} (hs : s.settingsSound)
    (h : execReset at' cut s = .next t) : t.settingsSound := by
  have hstart := (State.KeepsSettings.start s at').sound hs
  unfold execReset at h
  dsimp only at h
  split at h
  · injection h with h; subst h; exact hstart
  · split at h
    · split at h <;> (injection h with h; subst h)
      · exact (State.KeepsSettings.answer _ _ _).sound hstart
      · exact State.resetPart_settingsSound _ _ _
    · injection h with h; subst h; exact hstart

/-! ## Every step -/

/-- A request keeps the settings sound when its own step does. -/
theorem carryOut_settingsSound {s t : State} {code : Byte} {at' : Nat} {g : State → Bytes → State × Answer}
    (hg : ∀ {s : State}, s.settingsSound → ∀ b, (g s b).1.settingsSound) (hs : s.settingsSound)
    (h : carryOut code at' s g = .next t) : t.settingsSound := by
  have hstart := (State.KeepsSettings.start s at').sound hs
  obtain rfl | ⟨o, rfl⟩ | ⟨b, rfl⟩ := carryOut_cases h
  · exact hstart
  · exact (State.KeepsSettings.withReply _ _).sound hstart
  · exact (State.KeepsSettings.answer _ _ _).sound (hg hstart b)

/-- Every command keeps the settings sound: a request that sets some, a region read and a reset by what they set, every
other command because it keeps them. -/
theorem exec_settingsSound {c : Instr} {s t : State} (hs : s.settingsSound) (h : exec c s = .next t) :
    t.settingsSound := by
  cases c
  case powerOn cut => injection h with h; subst h; exact State.resetPart_settingsSound s _ cut
  case resetLine cut => injection h with h; subst h; exact State.resetPart_settingsSound s _ cut
  case reset => exact execReset_settingsSound hs h
  case regionRead => exact execRegionRead_settingsSound hs h
  case setFeed => exact carryOut_settingsSound setFeedStep_settingsSound hs h
  case setMonitor => exact carryOut_settingsSound setMonitorStep_settingsSound hs h
  case setActions => exact carryOut_settingsSound setActionsStep_settingsSound hs h
  case setStore => exact carryOut_settingsSound setStoreStep_settingsSound hs h
  case ethernetFrame => exact (State.KeepsSettings.ethernetFrame h).sound hs
  case deadlineExpiry => exact (State.KeepsSettings.deadlineExpiry h).sound hs
  case publishTimerExpiry => exact (State.KeepsSettings.publishTimerExpiry h).sound hs
  case completion pad => exact (State.KeepsSettings.completion (p := pad) h).sound hs
  case storeTimeout => exact (State.KeepsSettings.storeTimeout h).sound hs
  case settlingEnd => exact (State.KeepsSettings.settlingEnd h).sound hs
  case intervalEnd => exact (State.KeepsSettings.intervalEnd h).sound hs
  case spiExchange => exact (State.KeepsSettings.spiExchange h).sound hs
  case nextPart => exact (State.KeepsSettings.nextPart h).sound hs
  case regionWrite => exact (State.KeepsSettings.regionWrite h).sound hs
  case hello => exact (State.KeepsSettings.carryOut (fun s _ => .refl s) h).sound hs
  case readFeed => exact (State.KeepsSettings.carryOut .readFeedStep h).sound hs
  case feedStatus => exact (State.KeepsSettings.carryOut .feedStatusStep h).sound hs
  case armTake => exact (State.KeepsSettings.carryOut .armTakeStep h).sound hs
  case stopTake => exact (State.KeepsSettings.carryOut .stopTakeStep h).sound hs
  case abortTake => exact (State.KeepsSettings.carryOut .abortTakeStep h).sound hs
  case releaseTake => exact (State.KeepsSettings.carryOut .releaseTakeStep h).sound hs
  case takeStatus => exact (State.KeepsSettings.carryOut .takeStatusStep h).sound hs
  case flushIndex => exact (State.KeepsSettings.carryOut .flushIndexStep h).sound hs
  case readConditions => exact (State.KeepsSettings.carryOut .readConditionsStep h).sound hs
  case clearConditions => exact (State.KeepsSettings.carryOut .clearConditionsStep h).sound hs
  case readNotices => exact (State.KeepsSettings.carryOut (fun s _ => .refl s) h).sound hs
  case clearNotices => exact (State.KeepsSettings.carryOut .clearNoticesStep h).sound hs
  case setNoticeEnables => exact (State.KeepsSettings.carryOut .setNoticeEnablesStep h).sound hs
  case storeStatus => exact (State.KeepsSettings.carryOut (fun s _ => .refl s) h).sound hs
  case resetStore => exact (State.KeepsSettings.carryOut .resetStoreStep h).sound hs
  case saveSettings => exact (State.KeepsSettings.carryOut .saveSettingsStep h).sound hs

/-- Settles O59: an idle step passes time only, and every command keeps the settings sound. -/
theorem settingsStaySound : Obligations.SettingsStaySound := by
  intro s t hs h
  unfold step at h
  split at h
  · injection h with h; subst h; exact (State.KeepsSettings.start s _).sound hs
  · rename_i c rest _
    exact exec_settingsSound ((State.KeepsSettings.waiting s rest).sound hs) h

end Sys2Proof.Machine

/-! # Resets: what every reset leaves, and that it is sound -/

namespace Sys2Proof.Machine

/-! ## The blocks after reset -/

/-- All cells are free, in order (R42, R56). -/
theorem CellMem.reset_freeCells (bytes : List Host.Cell) :
    freeCells (CellMem.reset bytes).free = List.range Config.cellCount := by
  simp [CellMem.reset, freeCells, List.range_eq_range']

@[simp] theorem CellMem.reset_count (bytes : List Host.Cell) (c : Nat) : (CellMem.reset bytes).count c = 0 := rfl

theorem CellMem.reset_sound (bytes : List Host.Cell) : (CellMem.reset bytes).sound := by
  refine ⟨⟨List.Pairwise.nil, by simp [CellMem.reset]⟩, ?_, ?_, Nat.le_refl _, fun c hc => ?_, fun c hc => ?_⟩
  · rw [CellMem.reset_freeCells]; exact List.nodup_range
  · rw [CellMem.reset_freeCells, List.length_range]; rfl
  · simp [CellMem.reset_freeCells, hc]
  · simp [CellMem.reset_freeCells, hc]

@[simp] theorem StorePort.reset_bound : StorePort.reset.bound = [] := by decide

@[simp] theorem StorePort.reset_requests : StorePort.reset.requests = [] := by decide

@[simp] theorem StorePort.reset_tag (l : LaneNo) (g : TagNo) : StorePort.reset.tag l g = .free := by
  simp [StorePort.tag, StorePort.reset, Lane.reset]

/-- No lane is stalled (R142). -/
theorem StorePort.reset_stalled : StorePort.reset.lanes.toList.any Lane.stalled = false := by decide

/-! ## The invariants after reset -/

theorem Window.reset_ordered : Window.reset.ordered := rfl

theorem Feed.reset_windowSound (now : Nat) : Feed.reset.windowSound now :=
  ⟨Window.reset_ordered, fun _ => ⟨rfl, rfl⟩, fun _ h => nomatch h⟩

theorem Take.reset_frontsSound : Take.reset.frontsSound := by
  simp [Take.frontsSound, PageBuffer.within, Take.reset, Composition.reset, PageBuffer.reset]

theorem Take.reset_tableSound : Take.reset.tableSound := by
  simp [Take.tableSound, Take.reset, Composition.reset]

theorem State.reset_feed (f : FeedNo) : State.reset.feed f = Feed.reset := State.afterReset_feed _ _ _ _ _ _ f

theorem State.reset_take (f : FeedNo) : State.reset.take f = Take.reset := by rw [State.take, State.reset_feed]; rfl

theorem State.reset_memoriesCanonical : State.reset.memoriesCanonical := by
  have nil : ∀ d : Byte, Memory.wf d [] := fun d => ⟨List.Pairwise.nil, fun _ h => nomatch h⟩
  exact ⟨nil _, ⟨List.Pairwise.nil, fun _ h => nomatch h⟩, nil _, nil _⟩

theorem State.reset_windowsSound : State.reset.windowsSound :=
  ⟨fun f => by rw [State.reset_feed]; exact Feed.reset_windowSound _, fun _ f => by rw [State.reset_take]; rfl⟩

theorem State.reset_areasApart : State.reset.areasApart := fun f h => by
  rw [State.reset_take] at h; exact absurd rfl h

theorem State.reset_takesSound : State.reset.takesSound := fun f => by
  have hindex : State.reset.store.indexQ = [] := rfl
  have hessence : State.reset.store.essenceQ = [] := rfl
  have hbrowse : State.reset.store.browseQ = [] := rfl
  have hbound : State.reset.store.bound = [] := StorePort.reset_bound
  refine ⟨by rw [State.reset_take]; exact Take.reset_frontsSound, ?_⟩
  simp [State.requestsSound, StorePort.anyRequest, StorePort.anyBound, StorePort.anyQueued, hindex, hessence,
    hbrowse, hbound]

theorem State.reset_holdings : State.reset.holdings = [] := by
  have hr : State.reset.store.requests = [] := StorePort.reset_requests
  have hf : ∀ x ∈ State.reset.feeds.toList, x.holdings = [] := fun x hx => by
    have : x = Feed.reset := by simpa [State.reset, State.afterReset] using hx
    rw [this]; rfl
  simpa [State.holdings, hr] using hf

theorem State.reset_holdingsSound : State.reset.holdingsSound :=
  ⟨⟨CellMem.reset_sound [], fun c => by rw [State.reset_holdings]; rfl⟩, State.reset_windowsSound,
    fun f => by rw [State.reset_take]; exact Take.reset_tableSound⟩

/-- Settles O60: each invariant from its own lemma. -/
theorem resetStateIsSound : Obligations.ResetStateIsSound := by
  have hbound : State.reset.store.bound = [] := StorePort.reset_bound
  refine ⟨State.reset_memoriesCanonical, CellMem.reset_sound [], State.reset_windowsSound,
    ⟨Nat.zero_le _, Nat.zero_le _, Nat.zero_le _⟩, List.nodup_nil, ?_, State.afterReset_settingsSound _ _ _ _ _ _,
    State.reset_areasApart, State.reset_takesSound, State.reset_holdingsSound⟩
  rw [State.oneWritePerPage, hbound]; exact List.nodup_nil

/-! ## Every reset (R180, R181, R184) -/

/-- A RESET that reaches its owning block resets the part. -/
theorem execReset_of_dispatches {s : State} (t : Nat) (cut : Option ExchangeCut) (h : s.dispatches 0x7F [] = true) :
    execReset t cut s = .next ((s.start t).resetPart .resetRequest cut) := by
  obtain ⟨req, hp, hs, hc, -, hl, hf⟩ := State.dispatches_spec h
  have hj : (s.start t).judgeRequest req = none :=
    State.judgeRequest_of_fits (by simpa [hc] using hs) hl (by rw [hc]; exact hf)
  simp only [execReset, State.start_link, hp, hc, if_true, hj]

/-- Every reset cause resets the part as it stands at the command's station time. -/
theorem exec_of_restarts {c : Instr} {s : State} {cause : ResetCause} (h : restarts c s = some cause) :
    ∃ (s' : State) (cut : Option ExchangeCut), (s' = s ∨ ∃ t, s' = s.start t) ∧
      exec c s = .next (s'.resetPart cause cut) := by
  cases c with
  | powerOn cut => cases h; exact ⟨s, cut, .inl rfl, rfl⟩
  | resetLine cut => cases h; exact ⟨s, cut, .inl rfl, rfl⟩
  | reset t cut =>
    simp only [restarts] at h
    split at h
    · rename_i hd
      cases h
      exact ⟨s.start t, cut, .inr ⟨t, rfl⟩, execReset_of_dispatches t cut (Bool.and_eq_true_iff.mp hd).2⟩
    · cases h
  | _ => cases h

/-- Settles O3: every reset leaves every feed and every block at its after-reset value. -/
theorem resetLeavesAfterResetState : Obligations.ResetLeavesAfterResetState := by
  intro c s cause h
  obtain ⟨s', cut, hs', he⟩ := exec_of_restarts h
  have hbytes : s'.cells.bytes = s.cells.bytes ∧ s'.pool.bytes = s.pool.bytes := by
    rcases hs' with rfl | ⟨t, rfl⟩ <;> exact ⟨rfl, rfl⟩
  refine ⟨_, he, rfl, rfl, fun n => rfl, CellMem.reset_freeCells _, rfl, rfl, rfl, hbytes.1,
    fun n => by simp [State.resetPart, State.afterReset, ContextPool.reset], hbytes.2, rfl, rfl, rfl, rfl,
    StorePort.reset_tag, fun l => ?_, rfl, rfl, rfl, rfl, rfl, rfl, StorePort.reset_stalled,
    Settling.noConfusion, rfl, rfl, fun f => ?_⟩
  · simp [State.resetPart, State.afterReset, StorePort.reset, Lane.reset]
  · simp only [State.window, State.take, State.health, State.resetPart_feed]
    simp [Feed.reset, FeedEntry.reset, FeedIntake.reset, PathAcc.reset, Window.reset, WindowInterval.reset,
      WindowTotals.reset, ComposeInterval.reset, Take.reset, Take.areas, Composition.reset, ComposeTotals.reset,
      PageBuffer.reset, Accumulator.clear, IndexTotals.reset, BrowseState.reset, BrowseTotals.reset, Health.reset,
      Condition.default]

end Sys2Proof.Machine

/-! # The line port, the feed table and intake (chapter 1) -/

namespace Sys2Proof.Machine

/-! ## Fields of fields -/

theorem field_field (bs : Bytes) {o n o' n' : Nat} (h : o' + n' ≤ n) :
    field (field bs o n) o' n' = field bs (o + o') n' := by
  rw [field, field, field, List.drop_take, List.take_take, List.drop_drop, Nat.min_eq_left (by omega)]

theorem fieldNat_field (bs : Bytes) {o n o' n' : Nat} (h : o' + n' ≤ n) :
    fieldNat (field bs o n) o' n' = fieldNat bs (o + o') n' := by
  rw [fieldNat, field_field bs h]; rfl

/-- A one-byte field is its byte. -/
theorem fieldNat_one (bs : Bytes) (o : Nat) : fieldNat bs o 1 = (fieldByte bs o).toNat := by
  rw [fieldNat, field, fieldByte]
  rcases bs.drop o with _ | ⟨b, rest⟩ <;> simp [beNat]

theorem flagOf_eq_none {b : Byte} (h : 2 ≤ b.toNat) : flagOf b = none := by
  have h0 : b ≠ 0 := by rintro rfl; exact absurd h (by decide)
  have h1 : b ≠ 1 := by rintro rfl; exact absurd h (by decide)
  rw [flagOf, if_neg h0, if_neg h1]

@[simp] theorem feedOf_val (f : FeedNo) : feedOf f.val = some f := by simp [feedOf]

theorem feedOf_eq_none {n : Nat} (h : 8 ≤ n) : feedOf n = none := by simp [feedOf, h]

/-! ## SET FEED (R5) -/

theorem clamp_eq_self_iff {a b v : Nat} : clamp a b v = v ↔ a ≤ v ∧ v ≤ b := by
  unfold clamp; split <;> (try split) <;> omega

theorem FeedEntry.clamped_eq_self_iff {e : FeedEntry} :
    e.clamped = e ↔ 20 ≤ e.depth ∧ e.depth ≤ 2000 ∧ e.jump ≤ 1024 ∧ 40 ≤ e.publish ∧ e.publish ≤ 2000 := by
  have hd := clamp_eq_self_iff (a := 20) (b := 2000) (v := e.depth)
  have hj := clamp_eq_self_iff (a := 0) (b := 1024) (v := e.jump)
  have hp := clamp_eq_self_iff (a := 40) (b := 2000) (v := e.publish)
  rw [FeedEntry.clamped, FeedEntry.mk.injEq]
  simp only [hd, hj, hp, true_and, Nat.zero_le, and_assoc]

theorem map_clampedLine_eq_self_iff {l : Option (Word × Nat)} :
    l.map clampedLine = l ↔ l.all (fun p => decide (1 ≤ p.2 ∧ p.2 ≤ 65535)) = true := by
  rcases l with _ | ⟨address, port⟩
  · simp
  · simpa [clampedLine] using clamp_eq_self_iff (a := 1) (b := 65535) (v := port)

/-- CLAMPED says that a numeric setting of the entry or the line part's port was out of range (R175). -/
theorem setFeed_clamped_eq (e : FeedEntry) (l : Option (Word × Nat)) :
    (e.clamped != e || l.map clampedLine != l) =
      !(decide (20 ≤ e.depth ∧ e.depth ≤ 2000 ∧ e.jump ≤ 1024 ∧ 40 ≤ e.publish ∧ e.publish ≤ 2000) &&
        l.all fun (p : Word × Nat) => decide (1 ≤ p.2 ∧ p.2 ≤ 65535)) := by
  rw [Bool.not_and, ← decide_not, Bool.eq_iff_iff]
  simp only [Bool.or_eq_true, bne_iff_ne, ne_eq, FeedEntry.clamped_eq_self_iff, map_clampedLine_eq_self_iff,
    decide_eq_true_eq, Bool.not_eq_true, Bool.not_eq_true']

/-- An accepted SET FEED replaces the entry and the line part's settings, clamped. -/
theorem setFeedStep_of_accepted {s : State} {b : Bytes} {a : SetFeedArgs} {f : FeedNo} (hp : parseSetFeed b = some a)
    (hf : a.feed = f.val) (hr : s.refusesFeed f a = none) :
    setFeedStep s b = (s.setEntry f a.entry.clamped (a.line.map clampedLine),
      .set (a.entry.clamped != a.entry || a.line.map clampedLine != a.line)) := by
  simp only [setFeedStep, hp, hf, feedOf_val, hr]

theorem setFeedStep_of_refused {s : State} {b : Bytes} {a : SetFeedArgs} {f : FeedNo} {o : ReplyCode}
    (hp : parseSetFeed b = some a) (hf : a.feed = f.val) (hr : s.refusesFeed f a = some o) :
    setFeedStep s b = (s, .refuse o) := by
  simp only [setFeedStep, hp, hf, feedOf_val, hr]

/-- R5 step 2: a feed whose take is not IDLE is busy. -/
theorem State.refusesFeed_of_busy {s : State} {f : FeedNo} {a : SetFeedArgs} (h : (s.take f).state ≠ .idle) :
    s.refusesFeed f a = some .refusedBusy := by
  simp [State.refusesFeed, State.idle, h]

/-- R5 step 3: with a line part, a take that is not IDLE makes the part busy. -/
theorem State.refusesFeed_of_line {s : State} {f : FeedNo} {a : SetFeedArgs} (hl : a.line ≠ none)
    (h : ∃ g, (s.take g).state ≠ .idle) : s.refusesFeed f a = some .refusedBusy := by
  have hany : s.anyTake = true := by
    simpa [State.anyTake, State.idle] using h
  simp [State.refusesFeed, hany, Option.isSome_iff_ne_none.mpr hl]

/-- R5 steps 4 and 5: an enable with no path, or with a stream tag that another enabled entry holds. -/
theorem State.refusesFeed_of_badEntry {s : State} {f : FeedNo} {a : SetFeedArgs} (hidle : (s.take f).state = .idle)
    (hline : a.line = none ∨ ∀ g, (s.take g).state = .idle) (hen : a.entry.enable = true)
    (h : a.entry.paths = 0 ∨ ∃ g, g ≠ f ∧ (s.feed g).entry.enable = true ∧ (s.feed g).entry.tag = a.entry.tag) :
    s.refusesFeed f a = some .badArgument := by
  have hbusy : (a.line.isSome && s.anyTake) = false := by
    rcases hline with hl | hall
    · simp [hl]
    · simp [State.anyTake_eq_false.mpr hall]
  have hclash : (a.entry.paths == 0) = true ∨ s.tagClashes f a.entry = true := by
    rcases h with hp | ⟨g, hg⟩
    · exact .inl (beq_iff_eq.mpr hp)
    · exact .inr (by simpa [State.tagClashes, hen, and_assoc] using ⟨g, hg⟩)
  rcases hclash with hp | ht
  · simp [State.refusesFeed, State.idle, hidle, hbusy, hen, beq_iff_eq.mp hp]
  · simp [State.refusesFeed, State.idle, hidle, hbusy, hen, ht]

/-- R191: an enable byte of 2 or more, or a path bit above 3, names nothing. -/
theorem parseSetFeed_eq_none {b : Bytes} (h : 2 ≤ fieldNat b 5 1 ∨ 16 ≤ fieldNat b 6 1) : parseSetFeed b = none := by
  have henable : fieldNat b 5 1 = (fieldByte (field b 1 12) 4).toNat := by
    rw [← fieldNat_one, fieldNat_field b (by decide)]
  have hpaths : fieldNat (field b 1 12) 5 1 = fieldNat b 6 1 := fieldNat_field b (by decide)
  have hentry : parseEntry (field b 1 12) = none := by
    rcases h with h | h
    · simp only [parseEntry, flagOf_eq_none (henable ▸ h)]
    · have hlt : ¬ fieldNat b 6 1 < 16 := by omega
      simp only [parseEntry, hpaths, if_neg hlt]
      split <;> rfl
  simp only [parseSetFeed, hentry]

theorem setFeedStep_of_parseNone {s : State} {b : Bytes} (h : parseSetFeed b = none) :
    setFeedStep s b = (s, .refuse .badArgument) := by
  simp only [setFeedStep, h]

theorem setFeedStep_of_badFeed {s : State} {b : Bytes} {a : SetFeedArgs} (hp : parseSetFeed b = some a)
    (hf : 8 ≤ a.feed) : setFeedStep s b = (s, .refuse .badArgument) := by
  simp only [setFeedStep, hp, feedOf_eq_none hf]

/-- A SET FEED that its own step refuses leaves all but the clock and the reply. -/
theorem execSetFeed_of_refused {s : State} {body : Bytes} {o : ReplyCode} (t : Nat) (hd : s.dispatches 0x10 body = true)
    (h : setFeedStep (s.start t) body = (s.start t, .refuse o)) :
    exec (.setFeed t) s = .next ((s.start t).withReply (Reply.refused 0x10 o)) := by
  have he : exec (.setFeed t) s = _ := carryOut_of_dispatches t setFeedStep hd
  rw [he, h, State.answer_refuse]

/-- Settles O18: R5's refusals are judged in `State.refusesFeed`; what it lets pass is set clamped. -/
theorem setFeedReplacesEntryOrRefuses : Obligations.SetFeedReplacesEntryOrRefuses := by
  refine ⟨fun t s body a f hd hp hf hidle hline hen => ?_, fun t s body a f o hd hp hr => ?_,
    fun t s body hd hbad => ?_⟩
  · have hr : (s.start t).refusesFeed f a = none := State.refusesFeed_eq_none.mpr
      ⟨hidle, hline, fun h => (hen h).1, State.tagClashes_eq_false.mpr fun h => (hen h).2⟩
    have he : exec (.setFeed t) s = _ := carryOut_of_dispatches t setFeedStep hd
    rw [he, setFeedStep_of_accepted hp hf hr, State.answer_set, setFeed_clamped_eq]
    rcases a.line with _ | ⟨address, port⟩ <;> rfl
  · refine execSetFeed_of_refused t hd ?_
    rcases hr with ⟨rfl, hf⟩ | ⟨hf, ⟨rfl, hbusy⟩ | ⟨rfl, hl, hany⟩ | ⟨rfl, hidle, hline, hen, hbad⟩⟩
    · exact setFeedStep_of_badFeed hp hf
    · exact setFeedStep_of_refused hp hf (State.refusesFeed_of_busy hbusy)
    · exact setFeedStep_of_refused hp hf (State.refusesFeed_of_line hl hany)
    · exact setFeedStep_of_refused hp hf (State.refusesFeed_of_badEntry hidle hline hen hbad)
  · have hn := parseSetFeed_eq_none hbad
    exact ⟨hn, execSetFeed_of_refused t hd (setFeedStep_of_parseNone hn)⟩

/-! ## Discarded frames (R1, R3, R6 to R8, R13) -/

@[simp] theorem wrapAdd_one (c : Word) : wrapAdd c 1 = c + 1 := rfl

/-- The part once the line port has accepted a datagram at `t` and counted it (R1). -/
def State.afterAccept (s : State) (t : Nat) : State :=
  { s.start t with line := { s.line with accepted := s.line.accepted + 1 } }

/-- A datagram the line port accepts is counted and its payload goes to intake. -/
theorem execEthernetFrame_of_accepted {t : Nat} {frame u : Bytes} {s : State} (hs : s.settings.started = true)
    (hj : judgeFrame s.line.address s.line.udpPort frame = .accepted u) :
    exec (.ethernetFrame t frame) s = .next ((s.afterAccept t).takePayload u) := by
  simp only [exec, execEthernetFrame, State.start_settings, State.start_line, hs, hj, wrapAdd_one]
  rfl

theorem TakeState.takesPackets_iff {v : TakeState} : v.takesPackets = true ↔ v = .armed ∨ v = .recording := by
  cases v <;> simp [TakeState.takesPackets]

theorem State.takePayload_of_none {s : State} {u : Bytes} (h : parsePacket u = none) :
    s.takePayload u = { s with intake := { s.intake with malformed := s.intake.malformed + 1 } } := by
  simp only [State.takePayload, h, wrapAdd_one]

theorem State.takePayload_of_unclaimed {s : State} {u : Bytes} {p : Packet} (h : parsePacket u = some p)
    (hf : s.feedOfTag p.tag = none) :
    s.takePayload u = { s with intake := { s.intake with unclaimed := s.intake.unclaimed + 1 } } := by
  simp only [State.takePayload, h, hf, wrapAdd_one]

theorem State.takePayload_of_claimed {s : State} {u : Bytes} {p : Packet} {f : FeedNo} (h : parsePacket u = some p)
    (hf : s.feedOfTag p.tag = some f) : s.takePayload u = s.takePacket f p := by
  simp only [State.takePayload, h, hf]

/-- A packet of a claimed stream tag goes to its feed. -/
theorem execEthernetFrame_of_claimed {t : Nat} {frame u : Bytes} {s : State} {p : Packet} {f : FeedNo}
    (hs : s.settings.started = true) (hj : judgeFrame s.line.address s.line.udpPort frame = .accepted u)
    (hu : parsePacket u = some p) (hf : s.feedOfTag p.tag = some f) :
    exec (.ethernetFrame t frame) s = .next ((s.afterAccept t).takePacket f p) := by
  rw [execEthernetFrame_of_accepted hs hj, State.takePayload_of_claimed (s := s.afterAccept t) hu hf]

/-- R7: a packet of a take that takes no packets. -/
theorem State.takePacket_of_noTake {s : State} {f : FeedNo} {p : Packet} (ha : (s.take f).state ≠ .armed)
    (hr : (s.take f).state ≠ .recording) : s.takePacket f p = s.setFeed f { s.feed f with
      intake := { (s.feed f).intake with noTake := (s.feed f).intake.noTake + 1 } } := by
  have h : (s.feed f).take.state.takesPackets = false := by
    rw [← Bool.not_eq_true, TakeState.takesPackets_iff]; exact not_or.mpr ⟨ha, hr⟩
  simp [State.takePacket, h, State.countNoTake]

/-- R8: a packet of a path that is not enabled. -/
theorem State.takePacket_of_disabled {s : State} {f : FeedNo} {p : Packet}
    (ht : (s.take f).state = .armed ∨ (s.take f).state = .recording)
    (hp : (s.feed f).entry.pathEnabled p.path = false) :
    s.takePacket f p = s.setFeed f { s.feed f with
      intake := { (s.feed f).intake with pathDisabled := (s.feed f).intake.pathDisabled + 1 } } := by
  have h : (s.feed f).take.state.takesPackets = true := TakeState.takesPackets_iff.mpr ht
  simp [State.takePacket, h, hp, State.countDisabled]

/-- R10, R13: a packet of a dropped path is accounted and goes no further. -/
theorem State.takePacket_of_dropped {s : State} {f : FeedNo} {p : Packet}
    (ht : (s.take f).state = .armed ∨ (s.take f).state = .recording) (hp : (s.feed f).entry.pathEnabled p.path = true)
    (hd : pathDropped (s.feed f).entry (s.health f) p.path = true) :
    s.takePacket f p = (s.onPath f p.path fun a => a.account p.seq).onPath f p.path
      fun a => { a with dropped := a.dropped + 1 } := by
  have h : (s.feed f).take.state.takesPackets = true := TakeState.takesPackets_iff.mpr ht
  have hd' : pathDropped (s.feed f).entry (s.feed f).health p.path = true := hd
  simp [State.takePacket, h, hp, hd']

theorem PathAcc.account_first {a : PathAcc} {q : Half} (h : a.last = none) :
    a.account q = { a with
      last := some q, intReceived := satAdd a.intReceived 1, intExpected := satAdd a.intExpected 1,
      received := a.received + 1, expected := a.expected + 1 } := by
  simp only [PathAcc.account, h, wrapAdd_one]

theorem PathAcc.account_ahead {a : PathAcc} {q l : Half} (h : a.last = some l) (h1 : 1 ≤ (q - l).toNat)
    (h2 : (q - l).toNat ≤ 32767) : a.account q = { a with
      last := some q, intReceived := satAdd a.intReceived 1, intExpected := satAdd a.intExpected (q - l).toNat,
      received := a.received + 1, expected := a.expected + BitVec.ofNat 32 (q - l).toNat } := by
  simp only [PathAcc.account, h, distance, h1, h2, and_self, if_true, wrapAdd_one]; rfl

theorem PathAcc.account_old {a : PathAcc} {q l : Half} (h : a.last = some l)
    (h' : (q - l).toNat = 0 ∨ 32768 ≤ (q - l).toNat) :
    a.account q = { a with intReceived := satAdd a.intReceived 1, received := a.received + 1 } := by
  have hn : ¬ (1 ≤ (q - l).toNat ∧ (q - l).toNat ≤ 32767) := by omega
  simp only [PathAcc.account, h, distance, if_neg hn, wrapAdd_one]

/-- Settles O19: each discard is the branch of the line port or of intake that counts it. -/
theorem discardedFramesAreCounted : Obligations.DiscardedFramesAreCounted := by
  refine ⟨fun t frame s => ⟨fun hs => ?_, fun hs hj => ?_, fun hs hj => ?_⟩, fun t frame u s hs hj => ?_,
    fun t frame s p f hp hd => ?_, fun a q => ⟨PathAcc.account_first, fun l hl =>
      ⟨PathAcc.account_ahead hl, PathAcc.account_old hl⟩⟩⟩
  · simp [exec, execEthernetFrame, hs]
  · simp [exec, execEthernetFrame, hs, hj]
  · simp [exec, execEthernetFrame, hs, hj]
  · refine ⟨fun hu => ?_, fun p hu => ⟨fun hf => ?_, fun f hf => ⟨fun ha hr => ?_, fun ht hp => ?_⟩⟩⟩
    · rw [execEthernetFrame_of_accepted hs hj, State.takePayload_of_none hu]; rfl
    · rw [execEthernetFrame_of_accepted hs hj, State.takePayload_of_unclaimed (s := s.afterAccept t) hu hf]; rfl
    · rw [execEthernetFrame_of_claimed hs hj hu hf, State.takePacket_of_noTake (s := s.afterAccept t) ha hr]; rfl
    · rw [execEthernetFrame_of_claimed hs hj hu hf, State.takePacket_of_disabled (s := s.afterAccept t) ht hp]; rfl
  · obtain ⟨hs, ⟨u, hj, hu⟩, hf, ht, hen⟩ := hp
    rw [execEthernetFrame_of_claimed hs hj hu hf,
      State.takePacket_of_dropped (s := s.afterAccept t) ht hen hd]
    rfl

/-! ## The last-path guard (R12, R13) -/

theorem eq_false_or_iff {b : Bool} {P : Prop} : b = false ∨ P ↔ (b = true → P) := by cases b <;> simp

/-- The guard keeps a path exactly when it is the lowest-numbered enabled one and every enabled path is a candidate. -/
theorem guardKeeps_iff {e : FeedEntry} {h : Health} {p : Fin 4} :
    guardKeeps e h p = true ↔ (∀ q, e.pathEnabled q = true → h.dropCandidate q = true) ∧ e.pathEnabled p = true ∧
      ∀ q, e.pathEnabled q = true → p ≤ q := by
  simp only [guardKeeps, Bool.and_eq_true, List.all_eq_true, List.mem_finRange, true_implies, Bool.or_eq_true,
    Bool.not_eq_true', eq_false_or_iff, decide_eq_true_eq, and_assoc]

theorem pathDropped_eq_false_iff {e : FeedEntry} {h : Health} {p : Fin 4} (hp : e.pathEnabled p = true)
    (hc : h.dropCandidate p = true) : pathDropped e h p = false ↔ guardKeeps e h p = true := by
  simp [pathDropped, hp, hc]

theorem pathDropped_of_not_candidate {e : FeedEntry} {h : Health} {p : Fin 4} (hc : h.dropCandidate p = false) :
    pathDropped e h p = false := by
  simp [pathDropped, hc]

/-- Below or at an enabled path there is a lowest-numbered enabled one. -/
theorem FeedEntry.exists_lowest_below (e : FeedEntry) (n : Nat) (hn : n < 4) (hen : e.pathEnabled ⟨n, hn⟩ = true) :
    ∃ p, e.pathEnabled p = true ∧ ∀ q, e.pathEnabled q = true → p ≤ q := by
  by_cases hlow : ∀ q : Fin 4, e.pathEnabled q = true → n ≤ q.val
  · exact ⟨⟨n, hn⟩, hen, hlow⟩
  · obtain ⟨q, hq⟩ := Classical.not_forall.mp hlow
    obtain ⟨hqen, hlt⟩ := Classical.not_imp.mp hq
    exact e.exists_lowest_below q.val q.isLt hqen
termination_by n
decreasing_by exact Nat.lt_of_not_le hlt

/-- A path set that is not empty has a lowest-numbered path. -/
theorem FeedEntry.exists_lowest_path {e : FeedEntry} (h : e.paths ≠ 0) :
    ∃ p, e.pathEnabled p = true ∧ ∀ q, e.pathEnabled q = true → p ≤ q := by
  have hex : ∃ p : Fin 4, e.pathEnabled p = true := Classical.byContradiction fun hno =>
    h (BitVec.eq_of_getLsbD_eq fun i hi =>
      (Bool.eq_false_iff.mpr fun ht => hno ⟨⟨i, hi⟩, ht⟩).trans BitVec.getLsbD_zero.symm)
  obtain ⟨p, hp⟩ := hex
  exact e.exists_lowest_below p.val p.isLt hp

/-- Settles O20: either some enabled path is no candidate, or the guard keeps the lowest. -/
theorem lastPathGuardKeepsOnePath : Obligations.LastPathGuardKeepsOnePath := by
  refine fun e h => ⟨fun hp => ?_, fun p hp hc hd => ?_⟩
  · by_cases hall : ∀ q, e.pathEnabled q = true → h.dropCandidate q = true
    · obtain ⟨p, hen, hlow⟩ := e.exists_lowest_path hp
      exact ⟨p, hen, (pathDropped_eq_false_iff hen (hall p hen)).mpr (guardKeeps_iff.mpr ⟨hall, hen, hlow⟩)⟩
    · obtain ⟨q, hq⟩ := Classical.not_forall.mp hall
      obtain ⟨hen, hc⟩ := Classical.not_imp.mp hq
      exact ⟨q, hen, pathDropped_of_not_candidate (Bool.eq_false_iff.mpr hc)⟩
  · obtain ⟨hall, -, hlow⟩ := guardKeeps_iff.mp ((pathDropped_eq_false_iff hp hc).mp hd)
    exact ⟨hall, hlow⟩

end Sys2Proof.Machine

/-! # The interval end (R11, R149, R151 to R155, R158) -/

namespace Sys2Proof.Machine

/-! ## Sets of condition numbers -/

/-- A set gathered over a list of numbers holds those of the list that meet the test, and what it held before. -/
theorem getLsbD_foldl_setBit {w n : Nat} (hn : n ≤ w) (p : Fin n → Bool) (i : Fin n) (l : List (Fin n)) (m : BitVec w) :
    (l.foldl (fun m j => if p j then m ||| (1#w <<< j.val) else m) m).getLsbD i.val =
      (m.getLsbD i.val || (decide (i ∈ l) && p i)) := by
  induction l generalizing m with
  | nil => simp
  | cons j l ih =>
    have hi : i.val < w := Nat.lt_of_lt_of_le i.isLt hn
    rw [List.foldl_cons, ih]
    by_cases hij : i = j
    · subst hij
      cases p i <;> simp [hi]
    · have hbit : (1#w <<< j.val).getLsbD i.val = false :=
        (BitVec.getLsbD_twoPow j.val i.val).trans (by simp [Fin.val_inj, Ne.symm hij])
      cases p j <;> simp [hij, hbit]

/-! ## Measures and presence (R11, R149, R153) -/

theorem PathAcc.loss_eq (a : PathAcc) : a.loss = if a.intExpected.toNat = 0 then 0 else
    (a.intExpected.toNat - a.intReceived.toNat) * 1000 / a.intExpected.toNat := by
  unfold PathAcc.loss
  by_cases h : a.intExpected.toNat = 0
  · rw [if_pos h, if_neg (by omega)]
  · rw [if_neg h, if_pos (Nat.pos_of_ne_zero h)]

/-- A loss is at most 1,000 per mille. -/
theorem PathAcc.loss_le (a : PathAcc) : a.loss ≤ 1000 := by
  unfold PathAcc.loss
  split
  · exact Nat.div_le_of_le_mul (Nat.mul_le_mul_right _ (Nat.sub_le _ _))
  · exact Nat.zero_le _

theorem Feed.measure_loss (x : Feed) (p : Fin 4) : (x.measure p.val).toNat = (x.intake.paths[p]).loss := by
  have hle := (x.intake.paths[p]).loss_le
  simp only [Feed.measure, p.isLt, dif_pos, BitVec.toNat_ofNat]
  exact Nat.mod_eq_of_lt (Nat.lt_of_le_of_lt hle (by decide))

theorem Feed.measure_silent (x : Feed) (p : Fin 4) : x.measure (4 + p.val) = (x.intake.paths[p]).intReceived := by
  simp only [Feed.measure, dif_neg (show ¬ 4 + p.val < 4 by omega), Nat.add_sub_cancel_left,
    dif_pos p.isLt, Fin.getElem_fin]

theorem Feed.present_loss (x : Feed) (p : Fin 4) (m : Word) :
    x.present p.val m = true ↔ x.entry.paths.getLsbD p.val = true ∧ x.health.loss < m.toNat := by
  simp [Feed.present]

theorem Feed.present_silent (x : Feed) (p : Fin 4) (m : Word) :
    x.present (4 + p.val) m = true ↔ x.entry.paths.getLsbD p.val = true ∧ m = 0 := by
  simp [Feed.present, show 4 + p.val < 8 by omega]

/-- A count without a threshold of its own is present from 1 on. -/
theorem Feed.present_count (x : Feed) {n : Nat} (h : 10 ≤ n) (m : Word) : x.present n m = true ↔ 1 ≤ m.toNat := by
  simp [Feed.present, show ¬ n < 4 by omega, show ¬ n < 8 by omega, show n ≠ 8 by omega, show n ≠ 9 by omega]

/-! ## One feed at an interval end (R152, R154, R155, R158) -/

theorem Condition.judge_present (c : Condition) (f : Nat) (m : Word) :
    (c.judge f true m).run = min (c.run + 1) f ∧
    (c.judge f true m).dynamic = (decide (min (c.run + 1) f = f) || c.dynamic) := ⟨rfl, rfl⟩

theorem Condition.judge_absent (c : Condition) (f : Nat) (m : Word) :
    (c.judge f false m).run = 0 ∧ (c.judge f false m).dynamic = false := ⟨rfl, rfl⟩

theorem Feed.judged_of_recording {x : Feed} (h : x.take.state = .recording) (filter : Nat) (i : Fin 17) :
    (x.judged filter).conds[i] =
      x.health.conds[i].judge filter (x.present i.val (x.measure i.val)) (x.measure i.val) := by
  simp [Feed.judged, h]

theorem Feed.judged_of_not_recording {x : Feed} (h : x.take.state ≠ .recording) (filter : Nat) (i : Fin 17) :
    (x.judged filter).conds[i] = x.health.conds[i].idle := by
  simp [Feed.judged, h]

theorem Feed.judged_evaluated (x : Feed) (filter : Nat) :
    (x.judged filter).evaluated = decide (x.take.state = .recording) := by
  unfold Feed.judged; split <;> simp [*]

/-- R158: the notices raised are those of the conditions with NOTICE whose selected flag becomes set. -/
theorem Feed.noticesAt_of_recording {x : Feed} (h : x.take.state = .recording) (filter : Nat) (i : Fin 17) :
    (x.noticesAt filter).getLsbD i.val = (x.health.conds[i].actions.notice && !x.health.conds[i].selected &&
      (x.judged filter).conds[i].selected) := by
  simp only [Feed.noticesAt, if_pos h]
  rw [getLsbD_foldl_setBit (by decide)]
  simp

theorem Feed.noticesAt_of_not_recording {x : Feed} (h : x.take.state ≠ .recording) (filter : Nat) :
    x.noticesAt filter = 0 := if_neg h

/-! ## The interval end -/

/-- The part after an interval end at `t` (R151, R152). -/
def State.afterIntervalEnd (s : State) (t : Nat) : State :=
  { s.start t with
    feeds := s.feeds.map fun x => x.afterInterval s.monitor.filter
    monitor := { s.monitor with
      latest := some s.monitor.nextEnd, nextEnd := nextMultiple s.monitor.interval s.monitor.nextEnd }
    link := { s.link with pending := { s.link.pending with
      feeds := Vector.ofFn fun (i : Fin 8) => s.link.pending.feeds[i] ||| (s.feeds[i]).noticesAt s.monitor.filter } } }

theorem execIntervalEnd_eq (t : Nat) (s : State) : exec (.intervalEnd t) s =
    if s.monitor.nextEnd ≤ max s.time t then .next (s.afterIntervalEnd t) else .next (s.start t) := rfl

theorem State.afterIntervalEnd_feed (s : State) (t : Nat) (f : FeedNo) :
    (s.afterIntervalEnd t).feed f = (s.feed f).afterInterval s.monitor.filter := by
  simp [State.afterIntervalEnd, State.feed]

theorem State.afterIntervalEnd_pending (s : State) (t : Nat) (f : FeedNo) :
    (s.afterIntervalEnd t).link.pending.feeds[f] =
      s.link.pending.feeds[f] ||| (s.feed f).noticesAt s.monitor.filter := by
  simp [State.afterIntervalEnd, State.feed]

/-- Settles O55: each condition is judged by `Condition.judge` on its measure, or cleared by `Condition.idle`. -/
theorem intervalEndJudgesConditions : Obligations.IntervalEndJudgesConditions := by
  refine ⟨fun t s hdue => ⟨s.afterIntervalEnd t, (execIntervalEnd_eq t s).trans (if_pos hdue), rfl, fun f => ?_⟩,
    fun x m => ?_⟩
  · have hfeed := s.afterIntervalEnd_feed t f
    have hhealth : (s.afterIntervalEnd t).health f = (s.feed f).judged s.monitor.filter := by
      rw [State.health, hfeed]; rfl
    have hpending := s.afterIntervalEnd_pending t f
    refine ⟨fun p => ?_, ?_, ?_, ?_, fun hr => ⟨?_, ?_, fun i => ?_⟩, fun hr => ⟨?_, fun i => ?_⟩⟩
    · rw [hfeed]; simp [Feed.afterInterval, Feed.closeInterval, PathAcc.close]
    · rw [State.window, hfeed]; rfl
    · rw [hfeed]; rfl
    · rw [State.take, hfeed]; rfl
    · rw [hhealth, Feed.judged_evaluated]; exact decide_eq_false hr
    · rw [hpending, Feed.noticesAt_of_not_recording hr]; simp
    · rw [hhealth, Feed.judged_of_not_recording hr]; rfl
    · rw [hhealth, Feed.judged_evaluated]; exact decide_eq_true hr
    · have hc := Feed.judged_of_recording hr s.monitor.filter i
      dsimp only
      rw [hhealth, hpending, BitVec.getLsbD_or, Feed.noticesAt_of_recording hr]
      simp only [hc]
      refine ⟨rfl, rfl, rfl, fun hp => ?_, fun hp => ?_, rfl, rfl⟩
      · rw [hp]; exact Condition.judge_present _ _ _
      · rw [hp]; exact Condition.judge_absent _ _ _
  · refine ⟨fun p => ⟨?_, x.measure_silent p, x.present_loss p m, x.present_silent p m⟩, rfl, rfl, rfl, rfl, rfl, rfl,
      rfl, rfl, rfl, by simp [Feed.present], by simp [Feed.present], fun n hn _ => x.present_count hn m⟩
    rw [Feed.measure_loss, PathAcc.loss_eq]

end Sys2Proof.Machine

/-! # A frame that is not recorded (R58 to R62, R67, R69, R73, R85) -/

namespace Sys2Proof.Machine

/-! ## Decisions 1 to 4 (R58, R60 to R62) -/

section Judge

variable {c : Composition} {m : CellMem} {r : Released} {h0 : Held} {hd : FrameHeader}

/-- There is a plan for every slice of the directory. -/
theorem planSlices_length (m : CellMem) (ra : Raster) (hs : List Held) (k n : Nat) (dir : List (Nat × Nat))
    (sources : List (Option SourceEntry)) : (planSlices m ra hs k n dir sources).length = dir.length := by
  induction dir generalizing n sources with
  | nil => rfl
  | cons x dir ih => simp only [planSlices, List.length_cons, ih]

theorem judge_of_absent (hk : r.kind = .absent) : judge c m r = .lost .absent := by
  simp only [judge, hk]

theorem judge_of_headerless (hk : r.kind ≠ .absent) (hf : r.held.find? (fun h => h.index == 0) = none) :
    judge c m r = .lost .headerless := by
  simp only [judge, hf]

theorem judge_of_malformed (hk : r.kind ≠ .absent) (hf : r.held.find? (fun h => h.index == 0) = some h0)
    (hp : parseHeader (m.read { cell := h0.cell, offset := 0, length := h0.length }) = none) :
    judge c m r = .lost .malformed := by
  simp only [judge, hf, hp]

/-- R62: a frame of another raster or rate than the take's. -/
theorem judge_of_format (hk : r.kind ≠ .absent) (hf : r.held.find? (fun h => h.index == 0) = some h0)
    (hp : parseHeader (m.read { cell := h0.cell, offset := 0, length := h0.length }) = some hd)
    (hx : c.raster ≠ some hd.raster ∨ ∃ rate, c.rate = some rate ∧ rate ≠ hd.rate) :
    judge c m r = .lost .format := by
  have hx' : some hd.raster ≠ c.raster ∨ (c.rate.isSome ∧ c.rate ≠ some hd.rate) :=
    hx.imp Ne.symm fun ⟨rate, hr, hn⟩ => by simpa [hr] using hn
  simp only [judge, hf, hp, if_pos hx']

/-- A frame of the take's raster, and of its rate when that is set, is planned. -/
theorem judge_of_passed (hk : r.kind ≠ .absent) (hf : r.held.find? (fun h => h.index == 0) = some h0)
    (hp : parseHeader (m.read { cell := h0.cell, offset := 0, length := h0.length }) = some hd)
    (hra : c.raster = some hd.raster) (hrt : c.rate = none ∨ c.rate = some hd.rate) :
    judge c m r = .planned
      { header := hd
        slices := planSlices m hd.raster r.held c.nextOrdinal 0 hd.slices c.sources
        audio := planAudio r.held hd.audioOffset hd.audioLength } := by
  have hx : ¬ (some hd.raster ≠ c.raster ∨ (c.rate.isSome ∧ c.rate ≠ some hd.rate)) := by
    rcases hrt with h | h <;> simp [hra, h]
  simp only [judge, hf, hp, if_neg hx]

end Judge

/-! ## The order of the decisions (R58, R59, R67 to R69) -/

theorem Take.indexRoom_iff (t : Take) : t.indexRoom = true ↔
    t.comp.nextOrdinal / 63 < t.index.length / 2048 ∧ t.comp.nextOrdinal ≠ 4294967295 := decide_eq_true_iff

theorem Take.essenceRoom_iff (t : Take) (p : Plan) :
    t.essenceRoom p = true ↔ t.comp.nextOffset + p.padded ≤ t.essence.length := decide_eq_true_iff

section Compose

variable {s : State} {f : FeedNo} {r : Released} {p : Plan} {cause : LostCause}

/-- R59: whatever decisions 1 to 4 answer. -/
theorem State.compose_of_noIndexRoom (hi : (s.take f).indexRoom = false) :
    s.compose f r = s.areaFull f r .indexFull := by
  simp only [State.compose, hi]
  split <;> rfl

theorem State.compose_of_noEssenceRoom (hj : judge (s.take f).comp s.cells r = .planned p)
    (hi : (s.take f).indexRoom = true) (he : (s.take f).essenceRoom p = false) :
    s.compose f r = s.areaFull f r .essenceFull := by
  simp [State.compose, hj, hi, he]

theorem State.compose_of_lost (hj : judge (s.take f).comp s.cells r = .lost cause)
    (hi : (s.take f).indexRoom = true) : s.compose f r = s.commitRepeat f r cause := by
  simp [State.compose, hj, hi]

/-- R68: the ESSENCE queue is full. -/
theorem State.compose_of_backlog (hj : judge (s.take f).comp s.cells r = .planned p)
    (hi : (s.take f).indexRoom = true) (he : (s.take f).essenceRoom p = true) (hq : 64 ≤ s.store.essenceQ.length) :
    s.compose f r = s.commitRepeat f r .backlog := by
  simp [State.compose, hj, hi, he, hq]

/-- R69: no cell is free for the rebuilt header. -/
theorem State.compose_of_noCell (hj : judge (s.take f).comp s.cells r = .planned p)
    (hi : (s.take f).indexRoom = true) (he : (s.take f).essenceRoom p = true) (hq : s.store.essenceQ.length < 64)
    (hc : s.cells.acquire = none) : s.compose f r = s.commitRepeat f r .noCell := by
  simp [State.compose, hj, hi, he, Nat.not_le.mpr hq, hc]

end Compose

/-! ## What a REPEAT entry counts (R77, R78) -/

@[simp] theorem satAdd_zero (c : Word) : satAdd c 0 = c := by
  have h : min c.toNat 4294967295 = c.toNat := Nat.min_eq_left (Nat.le_of_lt_succ c.isLt)
  simp only [satAdd, Nat.add_zero, h, BitVec.ofNat_toNat, BitVec.setWidth_eq]

/-- Each of the three counts saturates, the last two only for their cause. -/
theorem ComposeInterval.lostFor_eq (c : ComposeInterval) (cause : LostCause) : c.lostFor cause =
    { c with
      lost := satAdd c.lost 1
      format := satAdd c.format (if cause = .format then 1 else 0)
      backlog := satAdd c.backlog (if cause = .backlog then 1 else 0) } := by
  have hcount : ∀ (P : Prop) [Decidable P] (w : Word),
      (if P then satAdd w 1 else w) = satAdd w (if P then 1 else 0) := fun P _ w => by split <;> simp
  simp only [ComposeInterval.lostFor, hcount]

/-- One total wraps, that of the cause. -/
theorem ComposeTotals.lost_eq (c : ComposeTotals) (cause : LostCause) : c.lost cause =
    { c with
      absent := c.absent + (if cause = .absent then 1 else 0)
      headerless := c.headerless + (if cause = .headerless then 1 else 0)
      malformed := c.malformed + (if cause = .malformed then 1 else 0)
      format := c.format + (if cause = .format then 1 else 0)
      backlog := c.backlog + (if cause = .backlog then 1 else 0)
      noCell := c.noCell + (if cause = .noCell then 1 else 0) } := by
  cases cause <;> simp [ComposeTotals.lost, wrapAdd]

/-! ## The entry joins (R73, R94) -/

@[simp] theorem State.setFeed_feed (s : State) (f : FeedNo) : s.setFeed f (s.feed f) = s := by
  simp [State.setFeed, State.feed]

@[simp] theorem State.setTake_take (s : State) (f : FeedNo) : s.setTake f (s.take f) = s :=
  s.setFeed_feed f

@[simp] theorem State.setTake_setTake (s : State) (f : FeedNo) (x y : Take) :
    (s.setTake f x).setTake f y = s.setTake f y := by
  simp [State.setTake]

/-- R96: a timer that runs runs on. -/
theorem State.startTimer_eq (s : State) (f : FeedNo) : s.startTimer f = s.setTake f { s.take f with
    timer := some ((s.take f).timer.getD (s.time + (s.feed f).entry.publish * 1000)) } := by
  cases ht : (s.take f).timer with
  | none => simp only [State.startTimer, ht, Option.getD_none]
  | some d =>
    have hsame : { s.take f with timer := some d } = s.take f := by rw [← ht]
    simp only [State.startTimer, ht, Option.getD_some, hsame, State.setTake_take]

theorem State.retryOwed_of_noneOwed {s : State} {f : FeedNo} (ho : (s.take f).page.owed = false)
    (hw : (s.take f).page.waiting = none) : s.retryOwed f = s := by
  simp [State.retryOwed, ho, hw]

/-- R94 steps 3 to 5 on an open page that is not full, with nothing owed: only the timer starts. -/
theorem State.afterJoin_of_room {s : State} {f : FeedNo} (hl : (s.take f).page.entries.length ≠ 63)
    (ho : (s.take f).page.owed = false) (hw : (s.take f).page.waiting = none) : s.afterJoin f = s.startTimer f := by
  simp only [State.afterJoin, if_neg hl, State.retryOwed_of_noneOwed ho hw]

/-- R94 step 1: an entry of the open page that does not fill it, with nothing owed, joins it and starts the timer. -/
theorem State.joinEntry_of_openPage {s : State} {f : FeedNo} {e : IndexEntry}
    (hp : (s.take f).page.openPage = e.ordinal / 63) (hl : (s.take f).page.entries.length < 62)
    (ho : (s.take f).page.owed = false) (hw : (s.take f).page.waiting = none) :
    s.joinEntry f e = s.setTake f { s.take f with
      page := { (s.take f).page with entries := (s.take f).page.entries ++ [e] }
      timer := some ((s.take f).timer.getD (s.time + (s.feed f).entry.publish * 1000)) } := by
  have hroom : ((s.take f).page.entries ++ [e]).length ≠ 63 := by
    rw [List.length_append, List.length_singleton]; omega
  simp only [State.joinEntry, if_pos hp.symm, PageBuffer.add]
  rw [State.afterJoin_of_room (by rwa [State.take_setTake]) (by rwa [State.take_setTake])
    (by rwa [State.take_setTake]), State.startTimer_eq]
  simp only [State.take_setTake, State.setTake_setTake, State.setTake_time, State.feed_setTake]

/-- The same of a feed just set. -/
theorem State.joinEntry_setFeed_of_openPage (s : State) (f : FeedNo) (x : Feed) (e : IndexEntry)
    (hp : x.take.page.openPage = e.ordinal / 63) (hl : x.take.page.entries.length < 62)
    (ho : x.take.page.owed = false) (hw : x.take.page.waiting = none) :
    (s.setFeed f x).joinEntry f e = (s.setFeed f x).setTake f { x.take with
      page := { x.take.page with entries := x.take.page.entries ++ [e] }
      timer := some (x.take.timer.getD (s.time + x.entry.publish * 1000)) } := by
  have hfeed := s.feed_setFeed_self f x
  have htake : (s.setFeed f x).take f = x.take := congrArg Feed.take hfeed
  rw [State.joinEntry_of_openPage (by rwa [htake]) (by rwa [htake]) (by rwa [htake]) (by rwa [htake]), htake, hfeed,
    State.setFeed_time]

/-- R73: what a REPEAT entry leaves, before the entry joins. -/
theorem State.commitRepeat_eq (s : State) (f : FeedNo) (r : Released) (cause : LostCause) :
    s.commitRepeat f r cause =
      (({ s with cells := s.cells.dropAll (r.held.map (·.cell)) } : State).setFeed f { s.feed f with
        interval := (s.feed f).interval.lostFor cause
        take := { s.take f with comp := { (s.take f).comp with
          nextOrdinal := (s.take f).comp.nextOrdinal + 1
          totals := (s.take f).comp.totals.lost cause } } }).joinEntry f
        (repeatEntry (s.take f).comp r cause (s.health f).suspect) := rfl

/-! ## A take that goes on draining (R86, R87, R95) -/

/-- What the end of browse and a snapshot leave of a take: its state and end cause, what it recorded, the entries of
its open page and which page is final. -/
structure Take.SameRecord (t t' : Take) : Prop where
  state : t'.state = t.state
  endCause : t'.endCause = t.endCause
  comp : t'.comp = t.comp
  unwritten : t'.unwritten = t.unwritten
  entries : t'.page.entries = t.page.entries
  finalPage : t'.page.finalPage = t.page.finalPage

theorem Take.SameRecord.refl (t : Take) : t.SameRecord t := ⟨rfl, rfl, rfl, rfl, rfl, rfl⟩

theorem Take.SameRecord.trans {t t' t'' : Take} (a : t.SameRecord t') (b : t'.SameRecord t'') : t.SameRecord t'' :=
  ⟨b.state.trans a.state, b.endCause.trans a.endCause, b.comp.trans a.comp, b.unwritten.trans a.unwritten,
    b.entries.trans a.entries, b.finalPage.trans a.finalPage⟩

theorem Take.captured_sameRecord (t : Take) (w : WhichPage) (acc : Accumulator) : t.SameRecord (t.captured w acc) := by
  cases w <;> exact ⟨rfl, rfl, rfl, rfl, rfl, rfl⟩

theorem StorePort.anyQueued_of_mem {p : StorePort} {c : StoreClass} {r : Request} (h : r ∈ p.queue c) :
    p.anyQueued r.take = true := by
  rw [← Bool.not_eq_false, StorePort.anyQueued_eq_false]
  exact fun hno => hno c r h rfl

theorem StorePort.anyFlying_of_mem {p : StorePort} {i : Issued} (h : i ∈ p.flying) :
    p.anyFlying i.request.take = true :=
  List.any_eq_true.mpr ⟨i, h, beq_self_eq_true _⟩

/-- A request just joined is queued or in flight. -/
theorem State.join_anyQueued_or_anyFlying (s : State) (r : Request) :
    (s.join r).store.anyQueued r.take = true ∨ (s.join r).store.anyFlying r.take = true := by
  rcases s.join_has r with h | ⟨i, hi, rfl⟩
  · exact .inl (StorePort.anyQueued_of_mem h)
  · exact .inr (StorePort.anyFlying_of_mem hi)

/-- The page found queued is a request of the take. -/
theorem exists_mem_of_queuedCell {f : FeedNo} {page cell : Nat} {q : List Request}
    (h : queuedCell f page q = some cell) : ∃ r ∈ q, r.take = f := by
  unfold queuedCell at h
  split at h
  · rename_i r hr
    have hpage := List.find?_some hr
    refine ⟨r, List.mem_of_find?_eq_some hr, ?_⟩
    unfold Request.isPage at hpage
    split at hpage
    · exact beq_iff_eq.mp (Bool.and_eq_true_iff.mp hpage).1
    · cases hpage
  · cases h

/-- A rebuilt snapshot leaves each queued request to its take. -/
theorem map_take_rebuildCount (f : FeedNo) (page count : Nat) (q : List Request) :
    (rebuildCount f page count q).map (·.take) = q.map (·.take) := by
  simp only [rebuildCount, List.map_map]
  refine List.map_congr_left fun r _ => ?_
  simp only [Function.comp_apply]
  split
  · split <;> rfl
  · rfl

/-- After a rebuild the page's request is still queued. -/
theorem anyQueued_of_queuedCell {p : StorePort} {f : FeedNo} {page count cell : Nat} {q : List Request}
    (h : queuedCell f page q = some cell) (hp : p.indexQ = rebuildCount f page count q) : p.anyQueued f = true := by
  obtain ⟨r, hr, htake⟩ := exists_mem_of_queuedCell h
  have hmem : f ∈ p.indexQ.map (·.take) := by
    rw [hp, map_take_rebuildCount, ← htake]; exact List.mem_map_of_mem hr
  obtain ⟨r', hr', rfl⟩ := List.mem_map.mp hmem
  exact StorePort.anyQueued_of_mem (c := .index) hr'

/-- R87: a take with a request queued or in flight does not close. -/
theorem State.closeCheck_of_busy {s : State} {f : FeedNo}
    (h : s.store.anyQueued f = true ∨ s.store.anyFlying f = true) : s.closeCheck f = s :=
  if_neg fun ⟨_, _, hq, hf⟩ => by simp [hq, hf] at h

theorem State.oweSnapshot_sameRecord (s : State) (f : FeedNo) (w : WhichPage) :
    (s.take f).SameRecord ((s.oweSnapshot f w).take f) := by
  simp only [State.oweSnapshot, State.startTimer_eq, State.take_setTake]
  cases w <;> exact ⟨rfl, rfl, rfl, rfl, rfl, rfl⟩

@[simp] theorem State.autoclear_take (s : State) (f g : FeedNo) : (s.autoclear f).take g = s.take g :=
  s.take_setHealth f g _

/-- A snapshot, taken, rebuilt or owed, does not end its take: the request it queues or finds queued holds CLOSED
off. -/
theorem State.snapshot_sameRecord (s : State) (f : FeedNo) (w : WhichPage) :
    (s.take f).SameRecord ((s.snapshot f w).2.take f) := by
  unfold State.snapshot
  dsimp only
  split
  · exact .refl _
  · rename_i page entries acc _
    split
    · rename_i cell hcell
      rw [State.closeCheck_of_busy (.inl (anyQueued_of_queuedCell hcell rfl))]
      simp only [State.autoclear_take, State.take_setTake]
      exact Take.SameRecord.trans (Take.captured_sameRecord _ w _) ⟨rfl, rfl, rfl, rfl, rfl, rfl⟩
    · split
      · exact s.oweSnapshot_sameRecord f w
      · split
        · exact s.oweSnapshot_sameRecord f w
        · rw [State.closeCheck_of_busy (State.join_anyQueued_or_anyFlying _ _)]
          simp only [State.join_take, State.autoclear_take, State.take_setTake]
          exact Take.SameRecord.trans (Take.captured_sameRecord _ w _) ⟨rfl, rfl, rfl, rfl, rfl, rfl⟩

theorem State.endBrowse_sameRecord (s : State) (f : FeedNo) (b : BrowseEnd) :
    (s.take f).SameRecord ((s.endBrowse f b).take f) := by
  unfold State.endBrowse State.freeEnded
  split
  · split <;> simp only [State.freeContexts_take, State.take_setTake] <;> exact ⟨rfl, rfl, rfl, rfl, rfl, rfl⟩
  · exact .refl _

/-- R86: a take as it enters DRAINING with this cause: the timer stopped, the open page final. -/
def Take.toDraining (t : Take) (cause : EndCause) : Take :=
  { t with
    state := .draining, endCause := some cause, timer := none
    page := { t.page with finalPage := some t.page.openPage } }

/-- R86: a take that enters DRAINING goes on draining through the end of browse and the snapshots. -/
theorem State.enterDraining_sameRecord (s : State) (f : FeedNo) (cause : EndCause) :
    ((s.take f).toDraining cause).SameRecord ((s.enterDraining f cause).take f) := by
  have hopened := (State.endBrowse_sameRecord (s.setTake f ((s.take f).toDraining cause)) f .takeEnded).trans
    (State.snapshot_sameRecord _ f .opened)
  rw [State.take_setTake] at hopened
  unfold State.enterDraining
  dsimp only
  split
  · exact hopened.trans (State.snapshot_sameRecord _ f .waiting)
  · exact hopened

/-! ## The window is discarded (R37) -/

@[simp] theorem State.discardWindow_take (s : State) (f g : FeedNo) : (s.discardWindow f).take g = s.take g :=
  s.take_setWindow f g _

theorem State.discardWindow_window (s : State) (f : FeedNo) :
    ((s.discardWindow f).window f).base = none ∧ ((s.discardWindow f).window f).records = [] ∧
    ((s.discardWindow f).window f).mark = false := by
  simp [State.discardWindow]

/-- R59, R67, R85: the take drains with this cause, and what it recorded stands. -/
theorem State.areaFull_sameRecord (s : State) (f : FeedNo) (r : Released) (cause : EndCause) :
    ((s.take f).toDraining cause).SameRecord ((s.areaFull f r cause).take f) := by
  rw [State.areaFull, State.discardWindow_take]
  exact (s.dropCells _).enterDraining_sameRecord f cause

/-! ## The frame that is not recorded -/

/-- A frame without room in an area. -/
theorem State.compose_of_areaFull {s : State} {f : FeedNo} {r : Released} {cause : EndCause}
    (h : cause = .indexFull ∧ (s.take f).indexRoom = false ∨
      cause = .essenceFull ∧ (s.take f).indexRoom = true ∧
        ∃ p, judge (s.take f).comp s.cells r = .planned p ∧ (s.take f).essenceRoom p = false) :
    s.compose f r = s.areaFull f r cause := by
  rcases h with ⟨rfl, hi⟩ | ⟨rfl, hi, p, hj, he⟩
  · exact State.compose_of_noIndexRoom hi
  · exact State.compose_of_noEssenceRoom hj hi he

/-- A frame that decisions 1 to 4 lose, or that finds the ESSENCE queue full or no cell free. -/
theorem State.compose_of_repeat {s : State} {f : FeedNo} {r : Released} {cause : LostCause}
    (hi : (s.take f).indexRoom = true)
    (h : judge (s.take f).comp s.cells r = .lost cause ∨
      ∃ p, judge (s.take f).comp s.cells r = .planned p ∧ (s.take f).essenceRoom p = true ∧
        (cause = .backlog ∧ 64 ≤ s.store.essenceQ.length ∨
         cause = .noCell ∧ s.store.essenceQ.length < 64 ∧ s.cells.acquire = none)) :
    s.compose f r = s.commitRepeat f r cause := by
  rcases h with hj | ⟨p, hj, he, ⟨rfl, hq⟩ | ⟨rfl, hq, hc⟩⟩
  · exact State.compose_of_lost hj hi
  · exact State.compose_of_backlog hj hi he hq
  · exact State.compose_of_noCell hj hi he hq hc

/-- Settles O30: the decision that applies names the branch of the composer, which either drains the take
(`State.areaFull`) or hands a REPEAT entry on (`State.commitRepeat`). -/
theorem unrecordedFrameIsRepeatedOrFull : Obligations.UnrecordedFrameIsRepeatedOrFull := by
  refine ⟨fun c m r => ⟨judge_of_absent, fun hk hh => ?_, fun h0 hk hf => ⟨judge_of_malformed hk hf, fun hd hp =>
      ⟨judge_of_format hk hf hp, fun hra hrt => ⟨_, judge_of_passed hk hf hp hra hrt, rfl, ?_⟩⟩⟩⟩,
    fun s f r cause _ hfull => ?_, fun s f r cause _ hroom hlast hlost => ?_⟩
  · exact judge_of_headerless hk (List.find?_eq_none.mpr fun h hm => by simpa using hh h hm)
  · exact planSlices_length ..
  · have hfull' : s.compose f r = s.areaFull f r cause := State.compose_of_areaFull <| hfull.imp
      (fun ⟨hc, hi⟩ => ⟨hc, by rwa [← Bool.not_eq_true, Take.indexRoom_iff]⟩)
      (fun ⟨hc, hi, p, hj, he⟩ => ⟨hc, (Take.indexRoom_iff _).mpr hi, p, hj, by
        rw [← Bool.not_eq_true, Take.essenceRoom_iff]; exact Nat.not_le.mpr he⟩)
    obtain ⟨hstate, hcause, hcomp, hunwritten, hentries, hfinal⟩ := s.areaFull_sameRecord f r cause
    obtain ⟨hbase, hrecords, hmark⟩ :=
      State.discardWindow_window ((s.dropCells (heldCells r.held)).enterDraining f cause) f
    dsimp only
    rw [hfull']
    exact ⟨hstate, hcause, hcomp, hentries, hfinal, hbase, hrecords, hmark, hunwritten,
      (s.touches_areaFull f r cause).others⟩
  · have hjoin : s.compose f r = _ := (State.compose_of_repeat ((Take.indexRoom_iff _).mpr ⟨hroom, hlast⟩)
      (hlost.imp_right fun ⟨p, hj, he, hc⟩ => ⟨p, hj, (Take.essenceRoom_iff _ p).mpr he, hc⟩)).trans
      (s.commitRepeat_eq f r cause)
    rw [ComposeInterval.lostFor_eq, ComposeTotals.lost_eq] at hjoin
    exact ⟨hjoin, fun hp hl ho hw => hjoin.trans (State.joinEntry_setFeed_of_openPage _ f _ _ hp hl ho hw)⟩

end Sys2Proof.Machine

/-! # Browse copies (R107 to R117, R123) and late completions (R122, R140) -/

namespace Sys2Proof.Machine

/-! ## Contexts given up (R108, R123) -/

theorem State.freeContexts_contexts (s : State) (f : FeedNo) (n : Fin 16) : (s.freeContexts f).pool.contexts[n] =
    if (s.pool.contexts[n]).map Prod.fst = some f then none else s.pool.contexts[n] := by
  simp [State.freeContexts]

/-- R108: no context is left in the take's hands. -/
theorem State.freeContexts_ne_some (s : State) (f : FeedNo) (n : Fin 16) (m : Nat) :
    (s.freeContexts f).pool.contexts[n] ≠ some (f, m) := by
  rw [State.freeContexts_contexts]
  split
  · simp
  · rename_i h; intro hm; simp [hm] at h

theorem State.freeEnded_of_ended {s : State} {f : FeedNo} (he : (s.take f).copy.status = .ended)
    (hb : (s.take f).copy.outstanding = none) : s.freeEnded f = s.freeContexts f := by
  simp [State.freeEnded, BrowseState.busy, he, hb]

theorem State.freeEnded_of_notEnded {s : State} {f : FeedNo} (h : (s.take f).copy.status ≠ .ended) :
    s.freeEnded f = s := by
  simp [State.freeEnded, h]

theorem State.freeEnded_of_busy {s : State} {f : FeedNo} (h : (s.take f).copy.outstanding ≠ none) :
    s.freeEnded f = s := by
  simp [State.freeEnded, BrowseState.busy, h]

/-- Only the pool can change, and of it only who holds a context. -/
theorem State.freeEnded_eq (s : State) (f : FeedNo) : s.freeEnded f = { s with pool := (s.freeEnded f).pool } := by
  unfold State.freeEnded; split <;> rfl

@[simp] theorem State.freeEnded_bytes (s : State) (f : FeedNo) : (s.freeEnded f).pool.bytes = s.pool.bytes := by
  unfold State.freeEnded; split <;> rfl

@[simp] theorem State.freeEnded_feeds (s : State) (f : FeedNo) : (s.freeEnded f).feeds = s.feeds := by
  rw [State.freeEnded_eq]

@[simp] theorem State.freeEnded_store (s : State) (f : FeedNo) : (s.freeEnded f).store = s.store := by
  rw [State.freeEnded_eq]

@[simp] theorem State.freeEnded_cells (s : State) (f : FeedNo) : (s.freeEnded f).cells = s.cells := by
  rw [State.freeEnded_eq]

@[simp] theorem State.freeEnded_link (s : State) (f : FeedNo) : (s.freeEnded f).link = s.link := by
  rw [State.freeEnded_eq]

@[simp] theorem State.freeEnded_feed (s : State) (f g : FeedNo) : (s.freeEnded f).feed g = s.feed g := by
  simp [State.feed]

/-! ## A browse write is over (R121, R122) -/

@[simp] theorem State.clearBusy_store (s : State) (f : FeedNo) : (s.clearBusy f).store = s.store := by
  simp [State.clearBusy]

@[simp] theorem State.clearBusy_cells (s : State) (f : FeedNo) : (s.clearBusy f).cells = s.cells := by
  simp [State.clearBusy]

@[simp] theorem State.clearBusy_link (s : State) (f : FeedNo) : (s.clearBusy f).link = s.link := by
  simp [State.clearBusy]

theorem State.clearBusy_feed (s : State) (f : FeedNo) : (s.clearBusy f).feed f = { s.feed f with
    take := { s.take f with copy := { (s.take f).copy with outstanding := none } } } := by
  simp [State.clearBusy]

theorem State.clearBusy_contexts_of_ended {s : State} {f : FeedNo} (h : (s.take f).copy.status = .ended)
    (n : Fin 16) (m : Nat) : (s.clearBusy f).pool.contexts[n] ≠ some (f, m) := by
  rw [State.clearBusy, State.freeEnded_of_ended (by simpa using h) (by simp)]
  exact State.freeContexts_ne_some _ f n m

theorem State.clearBusy_pool_of_notEnded {s : State} {f : FeedNo} (h : (s.take f).copy.status ≠ .ended) :
    (s.clearBusy f).pool = s.pool := by
  rw [State.clearBusy, State.freeEnded_of_notEnded (by simpa using h), State.setTake_pool]

/-! ## A tag that ends (R136 to R140) -/

/-- A COMPLETION of the current epoch on a quarantined tag is late, whatever its result. -/
theorem StorePort.judge_of_quarantined {p : StorePort} {lane : LaneNo} {g : TagNo} {i : Issued}
    (h : p.tag lane g = .quarantined i) (result : Byte) :
    p.judge lane (BitVec.ofNat 8 p.epoch.toNat) (BitVec.ofNat 8 g.val) result = .late i := by
  have hg : (BitVec.ofNat 8 g.val).toNat = g.val := by simp; omega
  have he : (BitVec.ofNat 8 p.epoch.toNat).toNat = p.epoch.toNat := by simp; omega
  simp only [StorePort.judge, hg, he, g.isLt, dif_pos, if_pos, Fin.eta, h]

/-- The lane of an ended tag: the tag is free, and the lane has counted. -/
theorem State.endTag_lane (s : State) (lane : LaneNo) (g : TagNo) (r : Issued) (c : Lane → Lane) :
    (s.endTag lane (BitVec.ofNat 8 g.val) r c).store.lanes[lane] =
      c { s.store.lanes[lane] with tags := s.store.lanes[lane].tags.set g .free } := by
  have hg : Fin.ofNat 8 (BitVec.ofNat 8 g.val).toNat = g := by ext; simp
  rw [State.endTag, hg]
  simp [StorePort.setTag, StorePort.onLane]

@[simp] theorem State.endTag_queue (s : State) (l : LaneNo) (g : Byte) (r : Issued) (c : Lane → Lane)
    (d : StoreClass) : (s.endTag l g r c).store.queue d = s.store.queue d := by
  cases d <;> rfl

/-- R142: a lane with a free tag is not stalled. -/
theorem Lane.not_stalled_of_free {l : Lane} {g : TagNo} (h : l.tags[g] = .free) : l.stalled = false := by
  have hm : Tag.free ∈ l.tags := h ▸ Vector.getElem_mem g.isLt
  exact List.all_eq_false.mpr ⟨.free, Vector.mem_toList_iff.mpr hm, Bool.false_ne_true⟩

/-! ## A late completion (R140) -/

theorem State.tellLate_of_browse (s : State) {r : Request} (h : r.cls = .browse) :
    s.tellLate r = s.clearBusy r.take := by
  obtain ⟨f, _ | _ | _, a, n, hs⟩ := r
  case browse => rfl
  all_goals cases h

theorem State.tellLate_of_not_browse (s : State) {r : Request} (h : r.cls ≠ .browse) : s.tellLate r = s := by
  obtain ⟨f, _ | _ | _, a, n, hs⟩ := r
  case browse => exact absurd rfl h
  all_goals rfl

/-- Telling the owner of a late completion leaves the port, the cells and the notices. -/
theorem State.tellLate_keeps (s : State) (r : Request) :
    (s.tellLate r).store = s.store ∧ (s.tellLate r).cells = s.cells ∧ (s.tellLate r).link = s.link := by
  by_cases h : r.cls = .browse
  · simp [State.tellLate_of_browse s h]
  · simp [State.tellLate_of_not_browse s h]

/-- R140 steps 1 and 2: the state before the owner is told. -/
def State.endLate (s : State) (t : Nat) (lane : LaneNo) (g : TagNo) (i : Issued) : State :=
  (s.start t).endTag lane (BitVec.ofNat 8 g.val) i fun l => { l with late := wrapAdd l.late 1 }

theorem execCompletion_of_quarantined {s : State} {lane : LaneNo} {g : TagNo} {i : Issued}
    (h : s.store.tag lane g = .quarantined i) (hq : ∀ c, s.store.queue c = []) (t : Nat) (result pad : Byte) :
    exec (.completion t lane (BitVec.ofNat 8 s.store.epoch.toNat) (BitVec.ofNat 8 g.val) result pad) s =
      .next ((s.endLate t lane g i).tellLate i.request) := by
  have hstep : exec (.completion t lane (BitVec.ofNat 8 s.store.epoch.toNat) (BitVec.ofNat 8 g.val) result pad) s =
      .next ((s.endLate t lane g i).tellLate i.request).arbitrate := by
    simp only [exec, execCompletion, State.start_store, StorePort.judge_of_quarantined h, State.endLate]
  have hempty : ∀ c, ((s.endLate t lane g i).tellLate i.request).store.queue c = [] := fun c => by
    rw [(State.tellLate_keeps _ _).1, State.endLate, State.endTag_queue]; exact hq c
  rw [hstep, State.arbitrate_of_empty (hempty .index) (hempty .essence) (hempty .browse)]

/-- Settles O50: the lane is read off `State.endTag_lane`, and the owner off `State.clearBusy`. -/
theorem lateCompletionFreesTag : Obligations.LateCompletionFreesTag := by
  intro t lane g result pad s i htag hindex hessence hbrowse f
  have hq : ∀ c, s.store.queue c = [] := fun c => by cases c <;> assumption
  have hlane : (s.endLate t lane g i).store.lanes[lane] = _ := State.endTag_lane _ lane g i _
  obtain ⟨hstore, hcells, hlink⟩ := (s.endLate t lane g i).tellLate_keeps i.request
  have hfree : (s.endLate t lane g i).store.lanes[lane].tags[g] = .free := by rw [hlane]; simp
  refine ⟨_, execCompletion_of_quarantined htag hq t result pad, ?_⟩
  rw [StorePort.tag, hstore, hcells, hlink]
  refine ⟨hfree, by rw [hlane]; rfl, by rw [hlane]; rfl, by rw [hlane]; rfl, Lane.not_stalled_of_free hfree, rfl, rfl,
    fun hc => ?_, fun hc => ?_⟩
  · rw [State.tellLate_of_not_browse _ hc]; exact ⟨rfl, rfl⟩
  · have hothers := (State.touches_tellLate (s.endLate t lane g i) i.request).others
    rw [State.tellLate_of_browse _ hc] at hothers ⊢
    exact ⟨State.clearBusy_feed _ f, hothers, fun he => State.clearBusy_contexts_of_ended he,
      fun he => State.clearBusy_pool_of_notEnded (s := s.endLate t lane g i) he⟩

/-! ## The planes of a slot (R115 to R117) -/

theorem halves_length : ∀ (n : Nat) (bs : Bytes), bs.length = 2 * n → (halves bs).length = n
  | 0, bs, h => by simp [List.length_eq_zero_iff.mp h, halves]
  | n + 1, [], h | n + 1, [_], h => by simp only [List.length_cons, List.length_nil] at h; omega
  | n + 1, _ :: _ :: bs, h => by
    rw [halves, List.length_cons, halves_length n bs (by simp at h; omega)]

theorem macroblocks_length : ∀ (n : Nat) (l : List Byte), l.length = 6 * n → (macroblocks l).length = n
  | 0, l, h => by simp [List.length_eq_zero_iff.mp h, macroblocks]
  | n + 1, _ :: _ :: _ :: _ :: _ :: _ :: l, h => by
    rw [macroblocks, List.length_cons, macroblocks_length n l (by simp at h; omega)]
  | n + 1, [], h | n + 1, [_], h | n + 1, [_, _], h | n + 1, [_, _, _], h | n + 1, [_, _, _, _], h
  | n + 1, [_, _, _, _, _], h => by simp only [List.length_cons, List.length_nil] at h; omega

theorem inPairs_length : ∀ l : List α, (inPairs l).length = halfUp l.length
  | [] | [_] => by simp [inPairs, halfUp]
  | _ :: _ :: l => by rw [inPairs, List.length_cons, inPairs_length l]; simp [halfUp]; omega

/-- Pairing brings no new member. -/
theorem mem_of_mem_inPairs {x : α × α} : ∀ {l : List α}, x ∈ inPairs l → x.1 ∈ l ∧ x.2 ∈ l
  | [], h => by simp [inPairs] at h
  | [_], h => by simp [inPairs] at h; simp [h]
  | _ :: _ :: l, h => by
    rw [inPairs, List.mem_cons] at h
    rcases h with rfl | h
    · simp
    · simp [mem_of_mem_inPairs h]

theorem length_flatMap_of_const {g : α → List β} {n : Nat} {l : List α} (h : ∀ a ∈ l, (g a).length = n) :
    (l.flatMap g).length = n * l.length := by
  induction l with
  | nil => rfl
  | cons a l ih =>
    have hl : (l.flatMap g).length = n * l.length := ih fun b hb => h b (List.mem_cons_of_mem a hb)
    rw [List.flatMap_cons, List.length_append, h a List.mem_cons_self, hl, List.length_cons, Nat.mul_succ,
      Nat.add_comm]

/-- A plane of `w` by `h` samples: `h` rows of `w`. -/
def IsPlane (w h : Nat) (rows : List (List Byte)) : Prop := rows.length = h ∧ ∀ row ∈ rows, row.length = w

theorem IsPlane.flatten_length {w h : Nat} {rows : List (List Byte)} (p : IsPlane w h rows) :
    rows.flatten.length = w * h := by
  obtain ⟨rfl, hw⟩ := p
  rw [← List.flatMap_id]
  exact length_flatMap_of_const hw

/-- R117: halving a plane halves both of its sides, rounded up. -/
theorem IsPlane.halvePlane {w h : Nat} {rows : List (List Byte)} (p : IsPlane w h rows) :
    IsPlane (halfUp w) (halfUp h) (halvePlane rows) := by
  obtain ⟨rfl, hw⟩ := p
  refine ⟨by rw [Machine.halvePlane, List.length_map, inPairs_length], fun row hrow => ?_⟩
  obtain ⟨⟨top, bottom⟩, hm, rfl⟩ := List.mem_map.mp hrow
  obtain ⟨ht, hb⟩ := mem_of_mem_inPairs hm
  simp [inPairs_length, hw top ht, hw bottom hb]

/-- R115: a slice of valid length, or a filler slice, has all the macroblocks of its raster. -/
theorem BuildSlice.macroblocks_length (r : Raster) (b : BuildSlice)
    (h : ∀ bs, b = .read bs → 8 + 2 * r.blocks ≤ bs.length) : (b.macroblocks r).length = r.macroblocks := by
  cases b with
  | filler => simp [BuildSlice.macroblocks]
  | read bs =>
    have hlen : (field bs 8 (2 * r.blocks)).length = 2 * r.blocks := by
      have := h bs rfl
      simp [field]; omega
    refine Machine.macroblocks_length _ _ ?_
    rw [List.length_map, halves_length _ _ hlen, Raster.blocks]

section Planes

variable {r : Raster} {slices : List BuildSlice} (hn : slices.length = r.slices)
  (hb : ∀ b ∈ slices, (b.macroblocks r).length = r.macroblocks)

include hn hb

/-- R116: two luma rows per slice, of two samples per macroblock. -/
theorem eighthPlanes_luma : IsPlane (2 * r.macroblocks) (2 * r.slices) (eighthPlanes r slices).luma := by
  constructor
  · rw [eighthPlanes, length_flatMap_of_const (n := 2) fun _ _ => rfl, List.length_map, hn]
  · intro row hrow
    simp only [eighthPlanes, List.mem_flatMap, List.mem_map, List.mem_cons, List.not_mem_nil, or_false] at hrow
    obtain ⟨_, ⟨b, hm, rfl⟩, hrow⟩ := hrow
    rcases hrow with rfl | rfl
    all_goals rw [length_flatMap_of_const (n := 2) fun _ _ => rfl, hb b hm]

/-- R116: one chroma row per slice, of one sample per macroblock. -/
theorem isPlane_chroma (sample : Macroblock → Byte) :
    IsPlane r.macroblocks r.slices ((slices.map (BuildSlice.macroblocks r)).map fun row => row.map sample) := by
  refine ⟨by simp [hn], fun row hrow => ?_⟩
  simp only [List.mem_map] at hrow
  obtain ⟨_, ⟨b, hm, rfl⟩, rfl⟩ := hrow
  rw [List.length_map, hb b hm]

/-- R107: each plane of a copy has the sides of its profile. -/
theorem planesFor_sizes {p : Profile} (hp : p ≠ .none) :
    IsPlane (lumaSize r p).1 (lumaSize r p).2 (planesFor r p slices).luma ∧
    IsPlane (chromaSize r p).1 (chromaSize r p).2 (planesFor r p slices).cb ∧
    IsPlane (chromaSize r p).1 (chromaSize r p).2 (planesFor r p slices).cr := by
  have hluma := eighthPlanes_luma hn hb
  have hcb : IsPlane r.macroblocks r.slices (eighthPlanes r slices).cb := isPlane_chroma hn hb _
  have hcr : IsPlane r.macroblocks r.slices (eighthPlanes r slices).cr := isPlane_chroma hn hb _
  cases p with
  | none => exact absurd rfl hp
  | eighth => exact ⟨hluma, hcb, hcr⟩
  | sixteenth => exact ⟨hluma.halvePlane, hcb.halvePlane, hcr.halvePlane⟩

end Planes

/-- Settles O32: the sides of the planes (`planesFor_sizes`) multiply out to R107's table. -/
theorem builtPlanesHavePixelBytes : Obligations.BuiltPlanesHavePixelBytes := by
  intro r p slices hp hn hlen
  obtain ⟨hluma, hcb, hcr⟩ :=
    planesFor_sizes hn (fun b hm => b.macroblocks_length r (hlen b hm)) hp
  refine ⟨hluma.flatten_length, hcb.flatten_length, hcr.flatten_length, ?_⟩
  rw [hluma.flatten_length, hcb.flatten_length, hcr.flatten_length, pixelBytes]
  omega

/-! ## What the builder answers (R112 to R114, R120, R123, R124) -/

section Build

variable {s : State} {f : FeedNo} {i : Nat}

theorem State.buildAnswer_of_ended (h : (s.take f).copy.status = .ended) : s.buildAnswer f i = .ended := by
  simp only [State.buildAnswer, h, if_pos]

theorem State.buildAnswer_of_noRoom (h : (s.take f).copy.slotCount ≤ i) : s.buildAnswer f i = .ended := by
  simp only [State.buildAnswer, h, if_pos, ite_self]

theorem State.buildAnswer_of_fits (ha : (s.take f).copy.status = .active) (hi : i < (s.take f).copy.slotCount) :
    s.buildAnswer f i = if (s.take f).copy.busy then .collide
      else if s.store.held .browse || decide (Config.browseCapacity ≤ s.store.browseQ.length) then .backlog
      else .scheduled := by
  simp [State.buildAnswer, ha, Nat.not_le.mpr hi]

/-- R112 case 2, R123: browse ends with this reason, and the pool is freed of the take when busy is clear. -/
theorem State.endBrowse_of_active {b : BrowseEnd} (h : (s.take f).copy.status = .active) :
    s.endBrowse f b = (s.setTake f { s.take f with
      copy := { (s.take f).copy with status := .ended, reason := some b } }).freeEnded f := by
  rw [State.endBrowse, if_pos h]

theorem State.endBrowse_of_notActive {b : BrowseEnd} (h : (s.take f).copy.status ≠ .active) : s.endBrowse f b = s := by
  rw [State.endBrowse, if_neg h]

/-- R124: a SKIPPED answer is a change of the feed alone. -/
theorem State.countSkip_setTake (s : State) (f : FeedNo) (u : Take) : (s.setTake f u).countSkip f =
    s.setFeed f { s.feed f with
      take := u
      interval := { (s.feed f).interval with browseSkip := satAdd (s.feed f).interval.browseSkip 1 } } := by
  simp [State.countSkip, State.setTake]

variable {r : Raster} {slices : List BuildSlice} {k sub fil : Nat}

theorem State.buildBrowse_of_ended (h : s.buildAnswer f (k / (s.take f).divisor) = .ended) :
    s.buildBrowse f r slices k sub fil = ((.none, none), s.endBrowse f .areaFull) := by
  simp only [State.buildBrowse, h]

theorem State.buildBrowse_of_collide (h : s.buildAnswer f (k / (s.take f).divisor) = .collide) :
    s.buildBrowse f r slices k sub fil = ((.skipped, some (k / (s.take f).divisor)),
      (s.setTake f ((s.take f).browseTotals fun b =>
        { b with skippedCollide := b.skippedCollide + 1 })).countSkip f) := by
  simp only [State.buildBrowse, h, wrapAdd_one]

theorem State.buildBrowse_of_backlog (h : s.buildAnswer f (k / (s.take f).divisor) = .backlog) :
    s.buildBrowse f r slices k sub fil = ((.skipped, some (k / (s.take f).divisor)),
      (s.setTake f ((s.take f).browseTotals fun b =>
        { b with skippedBacklog := b.skippedBacklog + 1 })).countSkip f) := by
  simp only [State.buildBrowse, h, wrapAdd_one]

/-- R112, R120: the take that has scheduled the slot of ordinal `k`. -/
def Take.scheduleSlot (t : Take) (k : Nat) : Take :=
  { t with copy := { t.copy with
      outstanding := some (k, k / t.divisor)
      totals := { t.copy.totals with scheduled := t.copy.totals.scheduled + 1 } } }

/-- R120: the one browse write of the slot of ordinal `k`. -/
def Take.slotRequest (t : Take) (f : FeedNo) (k : Nat) : Request :=
  { take := f, subject := .browse k (k / t.divisor),
    address := t.browse.base + k / t.divisor * t.copy.slotBytes, length := t.copy.slotBytes, holdings := [] }

/-- A scheduled slot: its bytes are in the contexts, and its write joins the queue. -/
theorem State.buildBrowse_of_scheduled (h : s.buildAnswer f (k / (s.take f).divisor) = .scheduled) :
    ∃ m : List Host.Cell, s.buildBrowse f r slices k sub fil = ((.scheduled, some (k / (s.take f).divisor)),
      (({ s with pool := { s.pool with bytes := m } } : State).setTake f ((s.take f).scheduleSlot k)).join
        ((s.take f).slotRequest f k)) := by
  simp only [State.buildBrowse, h]
  exact ⟨_, rfl⟩

/-- What every SKIPPED answer leaves. -/
theorem State.skipped_keeps (s : State) (f : FeedNo) (u : Take) :
    ((s.setTake f u).countSkip f).store = s.store ∧ ((s.setTake f u).countSkip f).pool = s.pool ∧
    (((s.setTake f u).countSkip f).feed f).interval.browseSkip = satAdd (s.feed f).interval.browseSkip 1 ∧
    ((s.setTake f u).countSkip f).take f = u := by
  simp [State.countSkip_setTake, State.take]

end Build

/-- R112 case 2: the state of a take whose browse ended for want of room. -/
theorem State.endBrowse_changes {s : State} {f : FeedNo} {b : BrowseEnd} (h : (s.take f).copy.status = .active) :
    s.endBrowse f b = { s.setTake f { s.take f with
      copy := { (s.take f).copy with status := .ended, reason := some b } } with pool := (s.endBrowse f b).pool } ∧
    (s.endBrowse f b).pool.bytes = s.pool.bytes ∧
    ((s.take f).copy.outstanding ≠ none → (s.endBrowse f b).pool = s.pool) ∧
    ((s.take f).copy.outstanding = none → ∀ n : Fin 16, (s.endBrowse f b).pool.contexts[n] =
      if (s.pool.contexts[n]).map Prod.fst = some f then none else s.pool.contexts[n]) := by
  rw [State.endBrowse_of_active h]
  refine ⟨State.freeEnded_eq _ f, State.freeEnded_bytes _ f, fun hbusy => ?_, fun hfree n => ?_⟩
  · rw [State.freeEnded_of_busy (by simpa using hbusy), State.setTake_pool]
  · rw [State.freeEnded_of_ended (by simp) (by simpa using hfree)]
    exact State.freeContexts_contexts _ f n

/-- Settles O31: each case of R112 names the builder's answer, and each answer its state. -/
theorem browseBuildAnswers : Obligations.BrowseBuildAnswers := by
  intro s f r slices k sub fil b i t
  refine ⟨fun he => ?_, fun ha hfull => ?_, fun ha hfit => ⟨fun hfree hheld hqueue => ?_, fun hbusy => ?_,
    fun hfree hback => ?_⟩⟩
  · have hne : (s.take f).copy.status ≠ .active := fun h => by rw [h] at he; cases he
    rw [State.buildBrowse_of_ended (State.buildAnswer_of_ended he), State.endBrowse_of_notActive hne]
  · have hb : s.buildBrowse f r slices k sub fil = _ := State.buildBrowse_of_ended (State.buildAnswer_of_noRoom hfull)
    have ht : t = s.endBrowse f .areaFull := congrArg Prod.snd hb
    rw [ht, hb]
    exact ⟨rfl, State.endBrowse_changes ha⟩
  · have hanswer : s.buildAnswer f i = .scheduled := by
      have hq : ¬ Config.browseCapacity ≤ s.store.browseQ.length := Nat.not_le.mpr hqueue
      rw [State.buildAnswer_of_fits ha hfit]
      simp [BrowseState.busy, hfree, hheld, hq, b]
    obtain ⟨m, hb⟩ := State.buildBrowse_of_scheduled (r := r) (slices := slices) (sub := sub) (fil := fil) hanswer
    have ht : t.take f = (s.take f).scheduleSlot k := by
      simp only [t, hb, State.join_take, State.take_setTake]
    rw [ht, hb]
    refine ⟨rfl, rfl, rfl, (s.take f).slotRequest f k, ?_, rfl, rfl, rfl, rfl⟩
    simp only [t, hb]
    exact State.join_has _ ((s.take f).slotRequest f k)
  · have hanswer : s.buildAnswer f i = .collide := by
      rw [State.buildAnswer_of_fits ha hfit, BrowseState.busy, if_pos (Option.isSome_iff_ne_none.mpr hbusy)]
    have hb : s.buildBrowse f r slices k sub fil = _ := State.buildBrowse_of_collide hanswer
    obtain ⟨hstore, hpool, hskip, htake⟩ := s.skipped_keeps f _
    simp only [t, hb]
    exact ⟨rfl, hstore, hpool, hskip, by rw [htake]; rfl⟩
  · have hanswer : s.buildAnswer f i = .backlog := by
      have hq : s.store.held .browse = true ∨ Config.browseCapacity ≤ s.store.browseQ.length := hback
      rw [State.buildAnswer_of_fits ha hfit]
      simp [BrowseState.busy, hfree, hq, b]
    have hb : s.buildBrowse f r slices k sub fil = _ := State.buildBrowse_of_backlog hanswer
    obtain ⟨hstore, hpool, hskip, htake⟩ := s.skipped_keeps f _
    simp only [t, hb]
    exact ⟨rfl, hstore, hpool, hskip, by rw [htake]; rfl⟩

end Sys2Proof.Machine

/-! # The health monitor's requests (R150, R151, R157, R163, R175, R191) -/

namespace Sys2Proof.Machine

/-- A request that its own step refuses changes the clock and the reply alone. -/
theorem carryOut_of_refused {s : State} {code : Byte} {body : Bytes} {g : State → Bytes → State × Answer}
    {o : ReplyCode} (t : Nat) (hd : s.dispatches code body = true)
    (h : g (s.start t) body = (s.start t, .refuse o)) :
    carryOut code t s g = .next ((s.start t).withReply (Reply.refused code o)) := by
  rw [carryOut_of_dispatches t g hd, h, State.answer_refuse]

/-! ## Lists of fields that must all name something (R191) -/

/-- One element that names nothing makes the whole list name nothing. -/
theorem mapM_eq_none_of_mem {α β : Type} {p : α → Option β} {l : List α} {a : α} (ha : a ∈ l) (hp : p a = none) :
    l.mapM p = none := by
  induction l with
  | nil => cases ha
  | cons b l ih =>
    rw [List.mapM_cons]
    rcases List.mem_cons.mp ha with rfl | hl
    · rw [hp]; rfl
    · rw [ih hl]
      cases p b <;> rfl

/-- A byte that is not 0 stands in the record, since a byte beyond its end reads as 0. -/
theorem fieldByte_mem_take {bs : Bytes} {o n : Nat} (ho : o < n) (h : fieldByte bs o ≠ 0) :
    fieldByte bs o ∈ bs.take n := by
  have hget : fieldByte bs o = (bs[o]?).getD 0 := by
    rw [fieldByte, List.headD_eq_head?_getD, List.head?_drop]
  rw [hget] at h ⊢
  cases hb : bs[o]? with
  | none => exact absurd (by rw [hb]; rfl) h
  | some b => exact List.mem_of_getElem? (i := o) (by rw [List.getElem?_take_of_lt ho, hb]; rfl)

/-! ## Sets of conditions -/

/-- A set of conditions holds the numbers of those that meet its test. -/
theorem condSet_getLsbD (h : Health) (p : Condition → Bool) (i : Fin 17) :
    (condSet h p).getLsbD i.val = p h.conds[i] := by
  rw [condSet, getLsbD_foldl_setBit (Nat.le_refl 17) (fun j => p h.conds[j])]
  simp

theorem parseConditionSet_eq_none {bs : Bytes} (h : 2 ^ 17 ≤ fieldNat bs 0 4) : parseConditionSet bs = none :=
  if_neg (Nat.not_lt.mpr h)

/-! ## CLEAR CONDITIONS (R163) -/

theorem Health.clearLatched_conds (h : Health) (named : BitVec 17) (i : Fin 17) :
    (h.clearLatched named).conds[i] =
      { h.conds[i] with latched := h.conds[i].latched && !named.getLsbD i.val } := by
  simp only [Health.clearLatched, Fin.getElem_fin, Vector.getElem_ofFn]
  cases named.getLsbD i.val <;> simp

theorem clearConditionsStep_of_named {s : State} {b : Bytes} {f : FeedNo} {named : BitVec 17}
    (hf : fieldNat b 0 1 = f.val) (hn : parseConditionSet (field b 1 4) = some named) :
    clearConditionsStep s b = (s.setHealth f ((s.health f).clearLatched named),
      .done (be4 ((s.health f).clearLatched named).latchedSet.toNat)) := by
  simp only [clearConditionsStep, hf, feedOf_val, hn]

theorem clearConditionsStep_of_badSet {s : State} {b : Bytes} {f : FeedNo} (hf : fieldNat b 0 1 = f.val)
    (h : 2 ^ 17 ≤ fieldNat b 1 4) : clearConditionsStep s b = (s, .refuse .badArgument) := by
  have hset : parseConditionSet (field b 1 4) = none :=
    parseConditionSet_eq_none (by rwa [fieldNat_field b (Nat.le_refl 4)])
  simp only [clearConditionsStep, hf, feedOf_val, hset]

theorem clearConditionsStep_of_badFeed {s : State} {b : Bytes} (h : 8 ≤ fieldNat b 0 1) :
    clearConditionsStep s b = (s, .refuse .badArgument) := by
  simp only [clearConditionsStep, feedOf_eq_none h]

/-- Settles O58: the flags that stay are the latched set of `Health.clearLatched`. -/
theorem clearConditionsClearsLatched : Obligations.ClearConditionsClearsLatched := by
  refine ⟨fun t s body f hd hf => ⟨fun named hn => ?_, fun hbad => ?_⟩, fun t s body hd hbad => ?_⟩
  · let h := (s.health f).clearLatched named
    refine ⟨h, h.latchedSet, ?_, rfl, fun i => ⟨Health.clearLatched_conds _ named i, condSet_getLsbD h _ i⟩⟩
    have he : exec (.clearConditions t) s = _ := carryOut_of_dispatches t clearConditionsStep hd
    rw [he, clearConditionsStep_of_named hf hn, State.answer_done _ _ _ (by simp [be4, beBytes])]
    rfl
  · exact carryOut_of_refused t hd (clearConditionsStep_of_badSet hf hbad)
  · exact carryOut_of_refused t hd (clearConditionsStep_of_badFeed hbad)

/-! ## SET ACTIONS (R157, R191) -/

theorem parseConditionByte_eq_none {b : Byte} (h : 64 ≤ b.toNat) : parseConditionByte b = none :=
  if_neg (Nat.not_lt.mpr h)

/-- Bit 6 or 7 set in one of the 17 condition bytes. -/
theorem parseConditions_eq_none {bs : Bytes} {i : Nat} (hi : i < 17) (h : 64 ≤ fieldNat bs i 1) :
    parseConditions bs = none := by
  rw [fieldNat_one] at h
  have hne : fieldByte bs i ≠ 0 := fun h0 => by rw [h0] at h; exact absurd h (by decide)
  have hmem := fieldByte_mem_take hi hne
  simp only [parseConditions, mapM_eq_none_of_mem hmem (parseConditionByte_eq_none h)]

theorem setActionsStep_of_placed {s : State} {b : Bytes} {f : FeedNo} {v : Vector (Select × Actions) 17}
    (hf : fieldNat b 0 1 = f.val) (hv : parseConditions (b.drop 1) = some v) (hd : dropMisplaced v = false) :
    setActionsStep s b = (s.setHealth f ((s.health f).withActions v), .set false) := by
  simp only [setActionsStep, hf, feedOf_val, hv, hd, Bool.false_eq_true, if_false]

theorem setActionsStep_of_misplaced {s : State} {b : Bytes} {f : FeedNo} {v : Vector (Select × Actions) 17}
    (hf : fieldNat b 0 1 = f.val) (hv : parseConditions (b.drop 1) = some v) (hd : dropMisplaced v = true) :
    setActionsStep s b = (s, .refuse .badArgument) := by
  simp only [setActionsStep, hf, feedOf_val, hv, hd, if_true]

theorem setActionsStep_of_parseNone {s : State} {b : Bytes} (h : parseConditions (b.drop 1) = none) :
    setActionsStep s b = (s, .refuse .badArgument) := by
  rw [setActionsStep, h]
  cases feedOf (fieldNat b 0 1) <;> rfl

/-- R157: DROP in the action set of a condition numbered 8..16. -/
theorem dropMisplaced_of_drop {v : Vector (Select × Actions) 17} {i : Fin 17} (hi : 8 ≤ i.val)
    (h : v[i].2.drop = true) : dropMisplaced v = true :=
  Bool.not_eq_false _ |>.mp fun hno => by
    rw [dropMisplaced_eq_false.mp hno i hi] at h; cases h

/-- Settles O57: `dropMisplaced` is R157's test, and a condition byte of 64 or more parses to nothing. -/
theorem setActionsReplacesActions : Obligations.SetActionsReplacesActions := by
  refine ⟨fun t s body f v hd hf hv => ⟨fun hplaced => ?_, fun ⟨i, hi, hdrop⟩ => ?_⟩, fun t s body hd ⟨i, hi⟩ => ?_⟩
  · have he : exec (.setActions t) s = _ := carryOut_of_dispatches t setActionsStep hd
    rw [he, setActionsStep_of_placed hf hv (dropMisplaced_eq_false.mpr hplaced), State.answer_set]
    rfl
  · exact carryOut_of_refused t hd (setActionsStep_of_misplaced hf hv (dropMisplaced_of_drop hi hdrop))
  · have hbyte : fieldNat (body.drop 1) i.val 1 = fieldNat body (1 + i.val) 1 := by
      rw [fieldNat, field, List.drop_drop]; rfl
    have hn := parseConditions_eq_none i.isLt (hbyte ▸ hi)
    exact ⟨hn, carryOut_of_refused t hd (setActionsStep_of_parseNone hn)⟩

/-! ## SET MONITOR (R150, R151, R175, R191) -/

theorem lt_nextMultiple {ms : Nat} (h : 0 < ms) (now : Nat) : now < nextMultiple ms now :=
  Nat.lt_mul_of_div_lt (Nat.lt_succ_self _) (by omega)

theorem nextMultiple_le (ms now : Nat) : nextMultiple ms now ≤ now + ms * 1000 := by
  rw [nextMultiple, Nat.succ_mul]
  exact Nat.add_le_add_right (Nat.div_mul_le_self _ _) _

theorem nextMultiple_mod (ms now : Nat) : nextMultiple ms now % (ms * 1000) = 0 := Nat.mul_mod_left _ _

/-- R151: an interval that does not change keeps its end. -/
theorem MonitorDevice.setInterval_nextEnd_same {m : MonitorDevice} {ms : Nat} (h : ms = m.interval) (now : Nat) :
    (m.setInterval ms now).nextEnd = m.nextEnd := by
  rw [MonitorDevice.setInterval, if_pos h]

/-- R151: a changed interval ends at its first multiple after now. -/
theorem MonitorDevice.setInterval_nextEnd_changed {m : MonitorDevice} {ms : Nat} (h : ms ≠ m.interval) (now : Nat) :
    (m.setInterval ms now).nextEnd = nextMultiple ms now := by
  rw [MonitorDevice.setInterval, if_neg h]

@[simp] theorem MonitorDevice.setInterval_latest (m : MonitorDevice) (ms now : Nat) :
    (m.setInterval ms now).latest = m.latest := by
  unfold MonitorDevice.setInterval; split <;> rfl

theorem MonitorFeedArgs.clamped_eq_self_iff {a : MonitorFeedArgs} : a.clamped = a ↔
    1 ≤ a.loss ∧ a.loss ≤ 1000 ∧ 1 ≤ a.late ∧ a.late ≤ 65535 ∧ 1 ≤ a.patch ∧ a.patch ≤ 255 := by
  rw [MonitorFeedArgs.clamped, MonitorFeedArgs.mk.injEq]
  simp only [clamp_eq_self_iff, and_true, and_assoc]

theorem MonitorArgs.clamped_feeds (a : MonitorArgs) (i : Fin 8) : a.clamped.feeds[i] = (a.feeds[i]).clamped := by
  simp [MonitorArgs.clamped]

theorem MonitorArgs.clamped_eq_self_iff {a : MonitorArgs} : a.clamped = a ↔
    10 ≤ a.interval ∧ a.interval ≤ 1000 ∧ 1 ≤ a.filter ∧ a.filter ≤ 8 ∧
      ∀ i : Fin 8, (a.feeds[i]).clamped = a.feeds[i] := by
  have hfeeds : a.feeds.map MonitorFeedArgs.clamped = a.feeds ↔ ∀ i : Fin 8, (a.feeds[i]).clamped = a.feeds[i] := by
    rw [Vector.ext_iff, Fin.forall_iff]
    simp
  rw [← hfeeds, MonitorArgs.clamped, MonitorArgs.mk.injEq]
  simp only [clamp_eq_self_iff, and_assoc]

/-- CLAMPED says that some setting was out of its range (R175). -/
theorem MonitorArgs.clamped_bne (a : MonitorArgs) : (a.clamped != a) =
    !decide (10 ≤ a.interval ∧ a.interval ≤ 1000 ∧ 1 ≤ a.filter ∧ a.filter ≤ 8 ∧
      ∀ i : Fin 8, 1 ≤ a.feeds[i].loss ∧ a.feeds[i].loss ≤ 1000 ∧ 1 ≤ a.feeds[i].late ∧
        a.feeds[i].late ≤ 65535 ∧ 1 ≤ a.feeds[i].patch ∧ a.feeds[i].patch ≤ 255) := by
  rw [bne, Bool.not_inj_iff, Bool.eq_iff_iff, beq_iff_eq, decide_eq_true_eq, MonitorArgs.clamped_eq_self_iff]
  simp only [MonitorFeedArgs.clamped_eq_self_iff]

/-- The part once the clamped arguments are set (R150). -/
theorem State.setMonitorTo_clamped (s : State) (a : MonitorArgs) : s.setMonitorTo a.clamped = { s with
    monitor := { interval := clamp 10 1000 a.interval, filter := clamp 1 8 a.filter, latest := s.monitor.latest
                 nextEnd := (s.monitor.setInterval (clamp 10 1000 a.interval) s.time).nextEnd }
    feeds := Vector.ofFn fun (i : Fin 8) => { s.feeds[i] with
      health := (s.feeds[i]).health.withSettings (a.feeds[i]).clamped } } := by
  simp only [State.setMonitorTo, MonitorArgs.clamped_feeds, MonitorDevice.setInterval_interval,
    MonitorDevice.setInterval_latest]
  rfl

theorem setMonitorStep_of_parsed {s : State} {b : Bytes} {a : MonitorArgs} (h : parseMonitor b = some a) :
    setMonitorStep s b = (s.setMonitorTo a.clamped, .set (a.clamped != a)) := by
  simp only [setMonitorStep, h]

theorem setMonitorStep_of_parseNone {s : State} {b : Bytes} (h : parseMonitor b = none) :
    setMonitorStep s b = (s, .refuse .badArgument) := by
  simp only [setMonitorStep, h]

/-- R191: an autoclear value other than 0 and 1, in the six bytes of one of the feeds. -/
theorem parseMonitor_eq_none {b : Bytes} {i : Nat} (hi : i < 8) (h : 1 < fieldNat b (3 + 6 * i + 5) 1) :
    parseMonitor b = none := by
  have hbyte : fieldNat b (3 + 6 * i + 5) 1 = (fieldByte (field b (3 + 6 * i) 6) 5).toNat := by
    rw [← fieldNat_one, fieldNat_field b (by decide)]
  have hfeed : parseMonitorFeed (field b (3 + 6 * i) 6) = none := by
    rw [parseMonitorFeed, flagOf_eq_none (hbyte ▸ h)]; rfl
  simp only [parseMonitor,
    mapM_eq_none_of_mem (p := fun i => parseMonitorFeed (field b (3 + 6 * i) 6)) (List.mem_range.mpr hi) hfeed]

/-- Settles O56: `MonitorDevice.setInterval` gives the interval's end, kept or the first multiple after now. -/
theorem setMonitorReplacesSettings : Obligations.SetMonitorReplacesSettings := by
  refine fun t s body hd => ⟨fun a ha => ?_, fun ⟨i, hi⟩ => ?_⟩
  · let ms := clamp 10 1000 a.interval
    have hms : 0 < ms := Nat.lt_of_lt_of_le (by decide) (le_clamp (by decide) a.interval)
    refine ⟨(s.monitor.setInterval ms (max s.time t)).nextEnd, ?_,
      fun hsame => MonitorDevice.setInterval_nextEnd_same hsame _, fun hchanged => ?_⟩
    · have he : exec (.setMonitor t) s = _ := carryOut_of_dispatches t setMonitorStep hd
      rw [he, setMonitorStep_of_parsed ha, State.setMonitorTo_clamped, State.answer_set, MonitorArgs.clamped_bne]
      rfl
    · rw [MonitorDevice.setInterval_nextEnd_changed hchanged]
      exact ⟨lt_nextMultiple hms _, nextMultiple_le _ _, nextMultiple_mod _ _⟩
  · have hn := parseMonitor_eq_none i.isLt hi
    exact ⟨hn, carryOut_of_refused t hd (setMonitorStep_of_parseNone hn)⟩

end Sys2Proof.Machine

/-! # The control link (chapter 9): exchanges, replies, the status summary, and the link's own requests -/

namespace Sys2Proof.Machine

/-! ## Bytes of a record -/

@[simp] theorem fitTo_length (d : Byte) (n : Nat) (bs : Bytes) : (fitTo d n bs).length = n := by
  rw [fitTo, List.length_append, List.length_take, List.length_replicate]; omega

theorem fitTo_of_length {d : Byte} {n : Nat} {bs : Bytes} (h : bs.length = n) : fitTo d n bs = bs := by
  simp [fitTo, ← h]

@[simp] theorem beBytes_length : ∀ n v : Nat, (beBytes n v).length = n
  | 0, _ => rfl
  | n + 1, v => congrArg (· + 1) (beBytes_length n v)

@[simp] theorem be1_length (v : Nat) : (be1 v).length = 1 := rfl

@[simp] theorem be2_length (v : Nat) : (be2 v).length = 2 := rfl

@[simp] theorem be4_length (v : Nat) : (be4 v).length = 4 := rfl

@[simp] theorem be8_length (v : Nat) : (be8 v).length = 8 := rfl

@[simp] theorem beWord_length (w : Word) : (beWord w).length = 4 := rfl

@[simp] theorem beFlag_length (b : Bool) : (beFlag b).length = 1 := rfl

@[simp] theorem beOpt_length (n : Nat) (v : Option Nat) : (beOpt n v).length = n := by
  cases v <;> simp [beOpt]

theorem beNat_be2 {v : Nat} (h : v < 65536) : beNat (be2 v) = v := by
  simp only [be2, beBytes, beNat, List.foldl, BitVec.toNat_ofNat]; omega

/-- Records of one width take that width each. -/
theorem flatMap_length_of_const {α : Type} {f : α → Bytes} {n : Nat} (h : ∀ x, (f x).length = n) (l : List α) :
    (l.flatMap f).length = l.length * n := by
  induction l with
  | nil => rw [List.flatMap_nil, List.length_nil, List.length_nil, Nat.zero_mul]
  | cons x l ih => rw [List.flatMap_cons, List.length_append, h, ih, List.length_cons, Nat.succ_mul, Nat.add_comm]

/-! ## Exchanges (R168 to R170) -/

@[simp] theorem Reply.frame_length (r : Reply) (summary : BitVec 16) : (r.frame summary).length = 128 :=
  fitTo_length _ _ _

theorem clockedOut_whole {frame : Bytes} (h : frame.length = 128) : clockedOut frame 1024 = frame := by
  rw [clockedOut, fitTo_of_length (h : frame.length = 1024 / 8)]; simp

@[simp] theorem State.start_summary (s : State) (t : Nat) : (s.start t).summary = s.summary := rfl

theorem State.frameOut_of_idle {s : State} (h : s.link.processing = none) :
    s.frameOut = s.link.reply.frame s.summary := by
  simp only [State.frameOut, h]

theorem State.frameOut_of_processing {s : State} {req : Bytes} (h : s.link.processing = some req) :
    s.frameOut = (Reply.refused (requestCode req) .pending).frame s.summary := by
  simp only [State.frameOut, h]; rfl

/-- R168: the part in an exchange at `t` that has clocked out a frame's bits. -/
def State.clocking (s : State) (t : Nat) (bits : Nat) (frame : Bytes) : State :=
  { s.start t with out := { writes := [], miso := clockedOut frame bits } }

theorem execSpiExchange_early {s : State} {req : Bytes} (t bits : Nat) (mosi : Bytes)
    (h : s.link.processing = some req) :
    exec (.spiExchange t bits mosi) s =
      .next { s.clocking t bits s.frameOut with link := { s.link with early := s.link.early + 1 } } := by
  have he : (s.start t).link.processing.isSome = true := by rw [State.start_link, h]; rfl
  simp only [exec, execSpiExchange, he, if_true]; rfl

theorem execSpiExchange_short {s : State} {bits : Nat} (t : Nat) (mosi : Bytes) (h : s.link.processing = none)
    (hbits : bits ≠ 1024) :
    exec (.spiExchange t bits mosi) s =
      .next { s.clocking t bits s.frameOut with link := { s.link with short := s.link.short + 1 } } := by
  have he : (s.start t).link.processing.isSome = false := by rw [State.start_link, h]; rfl
  simp only [exec, execSpiExchange, he, hbits, ne_eq, not_false_eq_true, if_true]; rfl

theorem execSpiExchange_taken {s : State} {req : Bytes} (t : Nat) (h : s.link.processing = none)
    (hreq : req.length = 128) :
    exec (.spiExchange t 1024 req) s =
      .next ({ s.start t with out := { writes := [], miso := s.link.reply.frame s.summary } }.takeRequest req) := by
  have he : (s.start t).link.processing.isSome = false := by rw [State.start_link, h]; rfl
  have hout : clockedOut (s.start t).frameOut 1024 = s.link.reply.frame s.summary := by
    rw [State.frameOut_of_idle (s := s.start t) h, clockedOut_whole (Reply.frame_length _ _)]; rfl
  simp only [exec, execSpiExchange, he, hout, fitTo_of_length hreq, ne_eq, not_true_eq_false, if_false]; rfl

/-- Settles O9: an early exchange is told by the request in processing, a short one by its bits. -/
theorem earlyAndShortExchangesAreDiscarded : Obligations.EarlyAndShortExchangesAreDiscarded := by
  refine ⟨fun t bits mosi req s h => ?_, fun t bits mosi s h hbits => ?_⟩
  · rw [execSpiExchange_early t bits mosi h, State.frameOut_of_processing h]; rfl
  · rw [execSpiExchange_short t mosi h hbits, State.frameOut_of_idle h]; rfl

/-! ## A request judged (R172) -/

@[simp] theorem bodyFits_zero (n : Nat) : bodyFits 0 n = none := rfl

/-- R172 step 1. -/
theorem State.judgeRequest_notStarted {s : State} {req : Bytes} (hs : s.settings.started = false)
    (hc : requestCode req ≠ 0x01) : s.judgeRequest req = some .notStarted := by
  exact if_pos (by simpa [hs] using hc)

/-- R172 step 2, R174: a request for the next part finds one held. -/
theorem State.judgeRequest_part {s : State} {req : Bytes} (hs : s.settings.started = true)
    (hc : requestCode req = 0) (hp : s.link.parts ≠ []) : s.judgeRequest req = none := by
  simp [State.judgeRequest, hs, hc, hp]

/-- R172 step 3: a code outside the catalogue, and the code of the next part with none held. -/
theorem State.judgeRequest_unknown {s : State} {req : Bytes} (hs : s.settings.started = true)
    (hf : bodyFits (requestCode req) (requestLength req) = none) (hp : requestCode req = 0 → s.link.parts = []) :
    s.judgeRequest req = some .unknownRequest := by
  have hpart : ¬ (requestCode req = 0 ∧ s.link.parts ≠ []) := fun ⟨hc, hne⟩ => hne (hp hc)
  simp only [State.judgeRequest, hs, hf, if_neg hpart]; rfl

/-- R172 step 4: a code of the catalogue with a body length that it does not accept. -/
theorem State.judgeRequest_badLength {s : State} {req : Bytes} (hs : s.settings.started = true ∨ requestCode req = 0x01)
    (hf : bodyFits (requestCode req) (requestLength req) = some false ∨
      126 < requestLength req ∧ bodyFits (requestCode req) (requestLength req) ≠ none) :
    s.judgeRequest req = some .badArgument := by
  have hstart : (!s.settings.started && requestCode req != 0x01) = false := by
    rcases hs with hs | hs <;> simp [hs]
  obtain ⟨fits, hfits⟩ : ∃ fits, bodyFits (requestCode req) (requestLength req) = some fits :=
    hf.elim (fun h => ⟨false, h⟩) fun h => Option.ne_none_iff_exists'.mp h.2
  have hcode : requestCode req ≠ 0 := fun h0 => by rw [h0, bodyFits_zero] at hfits; cases hfits
  have hbad : 126 < requestLength req ∨ fits = false :=
    hf.elim (fun h => .inr (Option.some.inj (hfits.symm.trans h))) fun h => .inl h.1
  simp only [State.judgeRequest, hstart, hfits, hcode, false_and, if_false, if_pos hbad, Bool.false_eq_true]

/-- The request in processing reaches its owning block when no step before dispatch decides it. -/
theorem State.dispatches_of_processing {s : State} {req : Bytes} (hp : s.link.processing = some req)
    (hs : s.settings.started = true ∨ requestCode req = 0x01) (hl : requestLength req ≤ 126)
    (hf : bodyFits (requestCode req) (requestLength req) = some true) :
    s.dispatches (requestCode req) (requestBody req) = true := by
  simp only [State.dispatches, hp, hf, beq_self_eq_true, Bool.and_true, Bool.and_eq_true, Bool.or_eq_true, beq_iff_eq,
    decide_eq_true_eq]
  exact ⟨hs, hl⟩

/-! ## A request taken (R168, R171, R172) -/

theorem State.discardParts_of_part (s : State) {req : Bytes} (h : requestCode req = 0) : s.discardParts req = s :=
  if_pos h

theorem State.discardParts_of_other (s : State) {req : Bytes} (h : requestCode req ≠ 0) :
    s.discardParts req = { s with link := { s.link with parts := [] } } :=
  if_neg h

@[simp] theorem State.discardParts_settings (s : State) (req : Bytes) : (s.discardParts req).settings = s.settings := by
  unfold State.discardParts; split <;> rfl

/-- R168: the part with a request in processing. -/
def State.withProcessing (s : State) (req : Bytes) : State := { s with link := { s.link with processing := some req } }

/-- A taken request that no step before dispatch decides is dispatched. -/
theorem State.takeRequest_of_dispatched {s : State} {req : Bytes} (hc : requestCode req ≠ 0)
    (hs : s.settings.started = true ∨ requestCode req = 0x01) (hl : requestLength req ≤ 126)
    (hf : bodyFits (requestCode req) (requestLength req) = some true) :
    s.takeRequest req = { s with link := { s.link with
      processing := some req, parts := [], resetSeen := s.link.resetSeen && requestCode req != 0x01 } } := by
  have hj : ((s.withProcessing req).discardParts req).judgeRequest req = none :=
    State.judgeRequest_of_fits (by rwa [State.discardParts_settings]) hl hf
  have ht : s.takeRequest req = ((s.withProcessing req).discardParts req).dispatchHello req := by
    simp only [State.takeRequest, State.withProcessing] at hj ⊢
    rw [hj]
  rw [ht, State.dispatchHello_eq, State.discardParts_of_other _ hc]; rfl

/-- R174: a taken request for the next part keeps the parts held. -/
theorem State.takeRequest_of_part {s : State} {req : Bytes} (hc : requestCode req = 0)
    (hs : s.settings.started = true) (hp : s.link.parts ≠ []) : s.takeRequest req = s.withProcessing req := by
  have hj : (s.withProcessing req).judgeRequest req = none := State.judgeRequest_part hs hc hp
  have ht : s.takeRequest req = (s.withProcessing req).dispatchHello req := by
    simp only [State.takeRequest, State.discardParts_of_part _ hc]
    simp only [State.withProcessing] at hj ⊢
    rw [hj]
  rw [ht, State.dispatchHello, if_neg (by rw [hc]; decide)]

/-- A taken request that a step before dispatch decides is answered at once; no part stays held. -/
theorem State.takeRequest_of_refused {s : State} {req : Bytes} {o : ReplyCode}
    (h : ((s.withProcessing req).discardParts req).judgeRequest req = some o) :
    s.takeRequest req = s.withReply (Reply.refused (requestCode req) o) := by
  have ht : s.takeRequest req = ((s.withProcessing req).discardParts req).answer (requestCode req) (.refuse o) := by
    simp only [State.takeRequest, State.withProcessing] at h ⊢
    rw [h]
  rw [ht, State.answer_refuse]
  unfold State.discardParts
  split <;> rfl

/-- Settles O10, by the two ways in which a taken request goes into processing. -/
theorem takenExchangeDispatchesRequest : Obligations.TakenExchangeDispatchesRequest := by
  refine fun t req s h hreq => ⟨fun hc hs hl hf => ?_, fun hc hs hp => ?_⟩
  · refine ⟨_, execSpiExchange_taken t h hreq, ?_⟩
    rw [State.takeRequest_of_dispatched (s := { s.start t with out := _ }) hc hs hl hf]
    refine ⟨rfl, Reply.frame_length _ _, rfl, rfl, ?_, by simp [State.sameButLink]⟩
    exact State.dispatches_of_processing rfl hs hl hf
  · refine ⟨_, execSpiExchange_taken t h hreq, ?_⟩
    rw [State.takeRequest_of_part (s := { s.start t with out := _ }) hc hs hp]
    exact ⟨rfl, rfl, rfl, by simp [State.sameButLink, State.withProcessing]⟩

/-- Settles O11: each of R172's refusals judges the request the same when the held parts are gone. -/
theorem undispatchedRequestIsRefused : Obligations.UndispatchedRequestIsRefused := by
  intro t req s h hreq o ho
  rw [execSpiExchange_taken t h hreq, State.takeRequest_of_refused]
  rcases ho with ⟨rfl, hs, hc⟩ | ⟨rfl, hs, hf, hp⟩ | ⟨rfl, hs, hf⟩
  · exact State.judgeRequest_notStarted (by rwa [State.discardParts_settings]) hc
  · refine State.judgeRequest_unknown (by rwa [State.discardParts_settings]) hf fun hc => ?_
    rw [State.discardParts_of_part _ hc]; exact hp hc
  · exact State.judgeRequest_badLength (by rwa [State.discardParts_settings]) hf

/-! ## Replies and their parts (R174) -/

/-- MORE stands on every part but the last. -/
theorem replyParts_more (code : Byte) (a : Answer) : ∀ ps : List Bytes, ps ≠ [] →
    ∃ l r, replyParts code a ps = l ++ [r] ∧ r.more = false ∧ ∀ x ∈ l, x.more = true
  | [], h => absurd rfl h
  | [b], _ => ⟨[], _, rfl, rfl, fun _ hx => nomatch hx⟩
  | b :: b' :: bs, _ => by
    obtain ⟨l, r, heq, hr, hl⟩ := replyParts_more code a (b' :: bs) (List.cons_ne_nil _ _)
    refine ⟨_ :: l, r, congrArg _ heq, hr, List.forall_mem_cons.mpr ⟨rfl, hl⟩⟩

/-- What an answer leaves as its current reply and its held parts: the replies of its parts. -/
theorem State.answer_replies (s : State) (code : Byte) (a : Answer) :
    (s.answer code a).link.reply :: (s.answer code a).link.parts =
      replyParts code a (cutParts Config.partBytes 16 a.body) := by
  obtain ⟨r, rest, hparts, hanswer⟩ := s.answer_spec code a
  rw [hanswer, hparts]

/-- The reply and the held parts carry the whole body of an answer of at most 16 parts. -/
theorem State.answer_body (s : State) (code : Byte) (a : Answer) (h : a.body.length ≤ 1952) :
    (s.answer code a).link.reply.body ++ (s.answer code a).link.parts.flatMap (·.body) = a.body := by
  rw [← List.flatMap_cons, State.answer_replies, List.flatMap_def, replyParts_bodies]
  exact cutParts_flatten _ _ _ h (by decide)

theorem execNextPart_of_held {s : State} {req : Bytes} {r : Reply} {rest : List Reply} (t : Nat)
    (h : s.link.processing = some req) (hc : requestCode req = 0) (hs : s.settings.started = true)
    (hp : s.link.parts = r :: rest) :
    exec (.nextPart t) s =
      .next { s.start t with link := { s.link with reply := r, parts := rest, processing := none } } := by
  have hj : (s.start t).judgeRequest req = none :=
    State.judgeRequest_part (s := s.start t) hs hc (by rw [State.start_link, hp]; exact List.cons_ne_nil _ _)
  simp only [exec, execNextPart, State.start_link, h, hc, if_true, hj, hp]

/-- Settles O12: what an answer leaves are the replies of its parts, in order. -/
theorem replyPartsCarryWholeBody : Obligations.ReplyPartsCarryWholeBody := by
  refine ⟨fun s code a h => ?_, fun t s req r rest h hc hs hp => execNextPart_of_held t h hc hs hp⟩
  intro t
  let ps := cutParts Config.partBytes 16 a.body
  have hreplies : t.link.reply :: t.link.parts = replyParts code a ps := s.answer_replies code a
  refine ⟨s.answer_body code a h, fun r hr => ?_, ?_, ?_, ?_⟩
  · rw [hreplies] at hr
    have hbody : r.body ∈ ps := replyParts_bodies code a ps ▸ List.mem_map_of_mem hr
    exact ⟨cutParts_length_le _ _ _ _ hbody, replyParts_marks code a ps r hr⟩
  · rw [hreplies]
    exact replyParts_more code a ps (cutParts_ne_nil _ _ _)
  · have hcount : (t.link.reply :: t.link.parts).length = ps.length := by
      rw [hreplies, ← List.length_map (f := (·.body)), replyParts_bodies]
    have hle : ps.length ≤ 16 := cutParts_count _ _ _
    rw [List.length_cons] at hcount
    omega
  · obtain ⟨r, rest, hanswer⟩ := s.answer_keeps code a
    simp only [t, hanswer]

/-! ## The status summary (R176, R178) -/

/-- Two masks meet in a bit that both have. -/
theorem and_bne_zero_iff {w : Nat} (a b : BitVec w) :
    (a &&& b != 0) = true ↔ ∃ n, a.getLsbD n = true ∧ b.getLsbD n = true := by
  simp only [← BitVec.getLsbD_and, ← Bool.and_eq_true]
  refine ⟨fun h => ?_, fun ⟨n, hn⟩ => bne_iff_ne.mpr fun h0 => ?_⟩
  · refine Classical.byContradiction fun hno => bne_iff_ne.mp h (BitVec.eq_of_getLsbD_eq fun i _ => ?_)
    exact (Bool.eq_false_iff.mpr fun hi => hno ⟨i, hi⟩).trans BitVec.getLsbD_zero.symm
  · exact absurd (h0 ▸ hn) (by simp)

theorem NoticeSet.meets_iff (a b : NoticeSet) : a.meets b = true ↔
    (∃ (f : FeedNo) (n : Nat), a.feeds[f].getLsbD n = true ∧ b.feeds[f].getLsbD n = true) ∨
      ∃ n : Nat, a.device.getLsbD n = true ∧ b.device.getLsbD n = true := by
  simp only [NoticeSet.meets, Bool.or_eq_true, List.any_eq_true, List.mem_finRange, true_and, and_bne_zero_iff]

theorem vector_any_iff {α : Type} {n : Nat} (v : Vector α n) (p : α → Bool) :
    v.toList.any p = true ↔ ∃ i : Fin n, p v[i] = true := by
  rw [Vector.any_toList, Vector.any_eq_true, Fin.exists_iff]; rfl

theorem vector_all_iff {α : Type} {n : Nat} (v : Vector α n) (p : α → Bool) :
    v.toList.all p = true ↔ ∀ i : Fin n, p v[i] = true := by
  rw [Vector.all_toList, Vector.all_eq_true, Fin.forall_iff]; rfl

theorem State.anyFaulted_iff (s : State) : s.anyFaulted = true ↔ ∃ f : FeedNo, (s.take f).state = .faulted := by
  simp only [State.anyFaulted, vector_any_iff, beq_iff_eq]; rfl

theorem Tag.isQuarantined_iff (v : Tag) : v.isQuarantined = true ↔ ∃ i, v = .quarantined i := by
  cases v <;> simp [Tag.isQuarantined]

theorem State.storeStalled_iff (s : State) : s.storeStalled = true ↔
    ∃ l : LaneNo, ∀ g : TagNo, ∃ i, s.store.tag l g = .quarantined i := by
  simp only [State.storeStalled, vector_any_iff, Lane.stalled, vector_all_iff, Tag.isQuarantined_iff]; rfl

/-- A summand of the summary is its flag at its bit's weight. -/
theorem toNat_flag {w : Nat} (b : Bool) (weight : BitVec w) :
    (if b then weight else 0).toNat = weight.toNat * b.toNat := by
  cases b <;> simp

/-- R176, R191: the summary's flags from bit 0 up. -/
def State.flags (s : State) : List Bool :=
  [s.attn, s.settings.started, s.saveBusy, s.anyFaulted, s.cellLow, s.storeStalled, s.link.resetSeen]

theorem State.summary_toNat (s : State) : s.summary.toNat = (BitVec.ofBoolListLE s.flags).toNat := by
  have h0 := s.attn.toNat_le
  have h1 := s.settings.started.toNat_le
  have h2 := s.saveBusy.toNat_le
  have h3 := s.anyFaulted.toNat_le
  have h4 := s.cellLow.toNat_le
  have h5 := s.storeStalled.toNat_le
  have h6 := s.link.resetSeen.toNat_le
  simp only [State.summary, State.flags, BitVec.toNat_add, toNat_flag, BitVec.ofBoolListLE, BitVec.toNat_concat,
    BitVec.reduceToNat]
  omega

/-- A bit of the summary is the flag at its place. -/
theorem State.summary_getLsbD (s : State) (n : Nat) : s.summary.getLsbD n = s.flags.getD n false := by
  rw [← BitVec.testBit_toNat, State.summary_toNat, BitVec.testBit_toNat, BitVec.getLsbD_ofBoolListLE]

theorem fieldNat_frame_summary (r : Reply) (summary : BitVec 16) : fieldNat (r.frame summary) 0 2 = summary.toNat := by
  have hbytes : field (r.frame summary) 0 2 = be2 summary.toNat := rfl
  rw [fieldNat, hbytes, beNat_be2 summary.isLt]

theorem fieldNat_frameOut (s : State) : fieldNat s.frameOut 0 2 = s.summary.toNat := by
  unfold State.frameOut; split <;> exact fieldNat_frame_summary _ _

theorem State.frameOut_length (s : State) : s.frameOut.length = 128 := by
  unfold State.frameOut; split <;> exact Reply.frame_length _ _

/-- Settles O13: the summary's bits are its flags in order, and each flag says what its source says. -/
theorem statusSummaryReportsState : Obligations.StatusSummaryReportsState := by
  intro s
  simp only [State.summary_getLsbD]
  refine ⟨NoticeSet.meets_iff _ _, rfl, rfl, Option.isSome_iff_ne_none, s.anyFaulted_iff, decide_eq_true_iff,
    s.storeStalled_iff, rfl, fun n hn => ?_, fieldNat_frameOut s, s.frameOut_length⟩
  have hend : s.flags[n]? = none := List.getElem?_eq_none hn
  rw [List.getD_eq_getElem?_getD, hend, Option.getD_none]

/-! ## HELLO (R171, R180) -/

theorem requestBody_of_empty {req : Bytes} (h : requestLength req = 0) : requestBody req = [] := by
  rw [requestBody, h, field, List.take_zero]

/-- Settles O14: a HELLO of an empty body is dispatched before STARTED too, and its body fits one part. -/
theorem helloReportsAndClearsResetSeen : Obligations.HelloReportsAndClearsResetSeen := by
  refine ⟨fun t req s h hreq hc hl => ?_, fun t s hd => ?_⟩
  · have hfits : bodyFits (requestCode req) (requestLength req) = some true := by rw [hc, hl]; rfl
    obtain ⟨t', hexec, -, -, hlink, -, hdispatches, -⟩ := (takenExchangeDispatchesRequest t req s h hreq).1
      (by rw [hc]; decide) (.inr hc) (by omega) hfits
    rw [hc, requestBody_of_empty hl] at hdispatches
    exact ⟨t', hexec, by rw [hlink, hc]; exact Bool.and_false _, hdispatches⟩
  · have he : exec (.hello t) s = _ := carryOut_of_dispatches t helloStep hd
    rw [he, helloStep, State.answer_done _ _ _ (by simp [helloBody])]
    simp only [helloBody, List.append_assoc]
    rfl

/-! ## Notices (R179) -/

@[simp] theorem NoticeSet.bytes_length (n : NoticeSet) : n.bytes.length = 33 := by
  rw [NoticeSet.bytes, List.length_append, flatMap_length_of_const fun m : BitVec 19 => be4_length m.toNat,
    Vector.length_toList, be1_length]

theorem NoticeSet.minus_feeds (a b : NoticeSet) (f : FeedNo) :
    (a.minus b).feeds[f] = a.feeds[f] &&& ~~~ b.feeds[f] := by
  simp [NoticeSet.minus]

theorem clearNoticesStep_of_parsed {s : State} {b : Bytes} {n : NoticeSet} (h : parseNotices b = some n) :
    clearNoticesStep s b = ({ s with link := { s.link with pending := s.link.pending.minus n } },
      .done (s.link.pending.minus n).bytes) := by
  simp only [clearNoticesStep, h]

theorem clearNoticesStep_of_parseNone {s : State} {b : Bytes} (h : parseNotices b = none) :
    clearNoticesStep s b = (s, .refuse .badArgument) := by
  simp only [clearNoticesStep, h]

theorem setNoticeEnablesStep_of_parsed {s : State} {b : Bytes} {n : NoticeSet} (h : parseNotices b = some n) :
    setNoticeEnablesStep s b = ({ s with link := { s.link with enables := n } }, .set false) := by
  simp only [setNoticeEnablesStep, h]

theorem setNoticeEnablesStep_of_parseNone {s : State} {b : Bytes} (h : parseNotices b = none) :
    setNoticeEnablesStep s b = (s, .refuse .badArgument) := by
  simp only [setNoticeEnablesStep, h]

/-- Settles O17: what CLEAR NOTICES leaves pending is `NoticeSet.minus`. -/
theorem noticeRequestsActOnTheSets : Obligations.NoticeRequestsActOnTheSets := by
  refine fun t s body => ⟨fun hd => ?_, fun n hd hn => ?_, fun n hd hn => ?_, fun hd hn => ?_, fun hd hn => ?_⟩
  · have he : exec (.readNotices t) s = _ := carryOut_of_dispatches t readNoticesStep hd
    rw [he, readNoticesStep, State.answer_done _ _ _ (by simp)]
    rfl
  · refine ⟨s.link.pending.minus n, NoticeSet.minus_feeds _ n, rfl, ?_⟩
    have he : exec (.clearNotices t) s = _ := carryOut_of_dispatches t clearNoticesStep hd
    rw [he, clearNoticesStep_of_parsed hn, State.answer_done _ _ _ (by simp)]
    rfl
  · have he : exec (.setNoticeEnables t) s = _ := carryOut_of_dispatches t setNoticeEnablesStep hd
    rw [he, setNoticeEnablesStep_of_parsed hn, State.answer_set]
    rfl
  · exact carryOut_of_refused t hd (clearNoticesStep_of_parseNone hn)
  · exact carryOut_of_refused t hd (setNoticeEnablesStep_of_parseNone hn)

/-! ## The reports fit 16 parts (R172, R174) -/

@[simp] theorem FeedEntry.bytes_length (e : FeedEntry) : e.bytes.length = 12 := by simp [FeedEntry.bytes]

theorem readFeedBody_length (s : State) (f : FeedNo) : (readFeedBody s f).length = 18 := by simp [readFeedBody]

@[simp] theorem WindowTotals.bytes_length (t : WindowTotals) : t.bytes.length = 44 := by simp [WindowTotals.bytes]

@[simp] theorem Feed.pathReport_length (x : Feed) (p : Fin 4) : (x.pathReport p).length = 15 := by
  simp [Feed.pathReport]

theorem feedStatusBody_length (s : State) (f : FeedNo) : (feedStatusBody s f).length = 147 := by
  simp [feedStatusBody, flatMap_length_of_const (s.feed f).pathReport_length]

theorem progressBody_length (s : State) (f : FeedNo) : (progressBody s f).length = 64 := by
  dsimp only [progressBody]
  simp

@[simp] theorem ComposeTotals.bytes_length (c : ComposeTotals) : c.bytes.length = 60 := by simp [ComposeTotals.bytes]

theorem compositionBody_length (s : State) (f : FeedNo) : (compositionBody s f).length = 103 := by
  simp [compositionBody]

/-- A take holds a context at one of four positions. -/
theorem State.heldContexts_length_le (s : State) (f : FeedNo) : (s.heldContexts f).length ≤ 4 :=
  List.length_filterMap_le _ _

theorem areasBody_length_le (s : State) (f : FeedNo) : (areasBody s f).length ≤ 63 := by
  have h := s.heldContexts_length_le f
  simp [areasBody, Take.areas, flatMap_length_of_const (fun c : Fin 16 => be1_length c.val)]
  omega

theorem statusSection_length_le {s : State} {f : FeedNo} {code : Nat} {report : Bytes}
    (h : statusSection s f code = some report) : report.length ≤ 103 := by
  unfold statusSection at h
  split at h
  · exact Option.some.inj h ▸ Nat.le_trans (Nat.le_of_eq (progressBody_length s f)) (by decide)
  · split at h
    · exact Option.some.inj h ▸ Nat.le_of_eq (compositionBody_length s f)
    · split at h
      · exact Option.some.inj h ▸ Nat.le_trans (areasBody_length_le s f) (by decide)
      · cases h

@[simp] theorem Condition.report_length (c : Condition) : c.report.length = 10 := by simp [Condition.report]

theorem conditionsBody_length (s : State) (f : FeedNo) : (conditionsBody s f).length = 190 := by
  simp [conditionsBody, flatMap_length_of_const Condition.report_length]

@[simp] theorem Subject.bytes_length (u : Subject) : u.bytes.length = 8 := by cases u <;> rfl

@[simp] theorem Settling.bytes_length (v : Settling) : v.bytes.length = 9 := by cases v <;> rfl

@[simp] theorem deadlineBytes_length (now deadline : Nat) (passed : Bool) :
    (deadlineBytes now deadline passed).length = 8 := by
  unfold deadlineBytes; split <;> rfl

@[simp] theorem Issued.report_length (i : Issued) (now : Nat) (passed : Bool) : (i.report now passed).length = 19 := by
  simp [Issued.report]

@[simp] theorem Tag.report_length (now : Nat) (v : Tag) : (v.report now).length = 20 := by
  cases v <;> simp [Tag.report]

@[simp] theorem queueReport_length (q : List Request) : (queueReport q).length = 10 := by
  cases q <;> simp [queueReport]

@[simp] theorem State.contextReport_length (s : State) (c : Context) : (s.contextReport c).length = 3 := by
  rcases c with _ | ⟨f, p⟩ <;> simp [State.contextReport]

@[simp] theorem BrowseTotals.bytes_length (b : BrowseTotals) : b.bytes.length = 32 := by simp [BrowseTotals.bytes]

@[simp] theorem BrowseState.report_length (b : BrowseState) : b.report.length = 54 := by simp [BrowseState.report]

@[simp] theorem StorePort.countBytes_length (p : StorePort) : p.countBytes.length = 64 := by
  simp [StorePort.countBytes, flatMap_length_of_const beWord_length]

theorem Lane.tagReports_length (now : Nat) (l : Lane) : (l.tags.toList.flatMap (Tag.report now)).length = 160 := by
  simp [flatMap_length_of_const (Tag.report_length now)]

theorem storeStatusBody_length (s : State) : (storeStatusBody s).length = 924 := by
  simp [storeStatusBody, StoreSettings.report, StorePort.heldBytes, allClasses,
    flatMap_length_of_const (Lane.tagReports_length s.time), flatMap_length_of_const (s.contextReport_length),
    flatMap_length_of_const (fun f => (s.take f).copy.report_length),
    flatMap_length_of_const (fun l : Lane => beFlag_length l.stalled)]

/-! ## The requests that only read (R173) -/

/-- A request that only reads is a step that leaves the state and answers its report, which fits 16 parts. -/
theorem reading_spec {c : Instr} {t : Nat} {s : State} {body report : Bytes} {code : Byte} (ht : c.time = some t)
    (h : reading c (s.start t) body = some (code, report)) :
    ∃ g : State → Bytes → State × Answer, exec c s = carryOut code t s g ∧
      g (s.start t) body = (s.start t, .done report) ∧ report.length ≤ 1952 := by
  cases c with
  | readFeed t' =>
    obtain rfl : t' = t := Option.some.inj ht
    obtain ⟨f, hf, he⟩ := Option.map_eq_some_iff.mp h
    cases he
    exact ⟨readFeedStep, rfl, by simp only [readFeedStep, hf],
      Nat.le_trans (Nat.le_of_eq (readFeedBody_length _ f)) (by decide)⟩
  | feedStatus t' =>
    obtain rfl : t' = t := Option.some.inj ht
    obtain ⟨f, hf, he⟩ := Option.map_eq_some_iff.mp h
    cases he
    exact ⟨feedStatusStep, rfl, by simp only [feedStatusStep, hf],
      Nat.le_trans (Nat.le_of_eq (feedStatusBody_length _ f)) (by decide)⟩
  | takeStatus t' =>
    obtain rfl : t' = t := Option.some.inj ht
    obtain ⟨f, hf, hsection⟩ := Option.bind_eq_some_iff.mp h
    obtain ⟨b, hb, he⟩ := Option.map_eq_some_iff.mp hsection
    cases he
    exact ⟨takeStatusStep, rfl, by simp only [takeStatusStep, onFeed, hf, hb],
      Nat.le_trans (statusSection_length_le hb) (by decide)⟩
  | readConditions t' =>
    obtain rfl : t' = t := Option.some.inj ht
    obtain ⟨f, hf, he⟩ := Option.map_eq_some_iff.mp h
    cases he
    exact ⟨readConditionsStep, rfl, by simp only [readConditionsStep, hf],
      Nat.le_trans (Nat.le_of_eq (conditionsBody_length _ f)) (by decide)⟩
  | readNotices t' =>
    obtain rfl : t' = t := Option.some.inj ht
    cases h
    exact ⟨readNoticesStep, rfl, rfl, by simp⟩
  | storeStatus t' =>
    obtain rfl : t' = t := Option.some.inj ht
    cases h
    exact ⟨storeStatusStep, rfl, rfl, Nat.le_trans (Nat.le_of_eq (storeStatusBody_length _)) (by decide)⟩
  | _ => cases h

/-- Settles O15: the step leaves the state, and the answer's parts carry the whole report. -/
theorem readingRequestsChangeNothing : Obligations.ReadingRequestsChangeNothing := by
  intro c t s body report code ht h hd
  obtain ⟨g, hexec, hg, hlength⟩ := reading_spec ht h
  let t' := (s.start t).answer code (.done report)
  have hnext : exec c s = .next t' := by rw [hexec, carryOut_of_dispatches t g hd, hg]
  obtain ⟨r, rest, hkeeps⟩ := (s.start t).answer_keeps code (.done report)
  have hlink : t'.link = { s.link with reply := r, parts := rest, processing := none } := congrArg State.link hkeeps
  have hreply : t'.link.reply ∈ replyParts code (.done report) (cutParts Config.partBytes 16 report) :=
    State.answer_replies (s.start t) code (.done report) ▸ List.mem_cons_self
  obtain ⟨hcode, houtcome, hclamped⟩ := replyParts_marks code _ _ _ hreply
  refine ⟨t', hnext, (s.start t).answer_sameButLink code (.done report), ?_, ?_, ?_, ?_, ?_, ?_, hcode, houtcome,
    hclamped, State.answer_body (s.start t) code (.done report) hlength⟩ <;> rw [hlink]

end Sys2Proof.Machine

/-! # The settings store (chapter 10): regions of the flash, resets, saves -/

namespace Sys2Proof.Machine

/-! ## A region's bytes in the flash (R182) -/

/-- A shorter read from the same address is the front of a longer one. -/
theorem Memory.read_take (d : Byte) {m : List Host.Cell} (h : Memory.wf d m) (a : Nat) {n n' : Nat} (hn : n ≤ n') :
    Memory.read d m a n = (Memory.read d m a n').take n := by
  rw [Memory.read_eq d m a n h, Memory.read_eq d m a n' h, ← List.map_take, List.range'_eq_map_range,
    List.range'_eq_map_range, ← List.map_take, List.take_range, Nat.min_eq_left hn]

theorem take_fitTo {d : Byte} {bs : Bytes} {n : Nat} (h : bs.length ≤ n) : (fitTo d n bs).take bs.length = bs := by
  rw [fitTo, List.take_of_length_le h, List.take_left]

/-- R182: a region fits its erase sector. -/
theorem Region.length_le_sector (r : Region) : r.length ≤ sectorBytes := by cases r <;> decide

/-- R182: no two regions share an erase sector. -/
theorem Region.sectors_apart {r r' : Region} (h : r' ≠ r) :
    r'.offset + sectorBytes ≤ r.offset ∨ r.offset + sectorBytes ≤ r'.offset := by
  revert h
  cases r <;> cases r' <;> decide

theorem Region.read_rewrite {r : Region} {flash : List Host.Cell} {bs : Bytes} (h : Memory.wf flashByte flash)
    (hlen : bs.length = r.length) : r.read (r.rewrite flash bs) true = bs := by
  have hfit : bs.length ≤ sectorBytes := hlen ▸ r.length_le_sector
  have hread : Memory.read flashByte (r.rewrite flash bs) r.offset sectorBytes = fitTo flashByte sectorBytes bs := by
    rw [Region.rewrite, fitTo_of_length hlen]
    simpa using Memory.read_write flashByte flash r.offset (fitTo flashByte sectorBytes bs) h
  rw [Region.read, if_pos rfl, Memory.read_take flashByte (r.rewrite_wf flash bs h) r.offset r.length_le_sector, hread,
    ← hlen, take_fitTo hfit]

theorem Region.read_rewrite_other {r r' : Region} {flash : List Host.Cell} (bs : Bytes) (h : Memory.wf flashByte flash)
    (hne : r' ≠ r) : r'.read (r.rewrite flash bs) true = r'.read flash true := by
  have hlen := r'.length_le_sector
  have hapart := Region.sectors_apart hne
  rw [Region.read, Region.read, if_pos rfl, if_pos rfl, Region.rewrite]
  refine Memory.read_write_apart flashByte flash _ _ _ _ h ?_
  rw [fitTo_length]
  omega

/-! ## Bytes that carry no mark (R182, R185, R188) -/

/-- Erased bytes, which are also what a silent flash reads as, do not carry a region's mark. -/
theorem Region.passes_erased (r : Region) : r.passes (List.replicate r.length flashByte) = false := by
  cases r <;> decide

theorem cutImage_length (r : Region) (n : Nat) : (cutImage r n).length = r.length := by
  unfold cutImage
  dsimp only
  split <;> simp

theorem cutImage_passes (r : Region) (n : Nat) : r.passes (cutImage r n) = false := by
  unfold cutImage
  dsimp only
  split
  · exact r.passes_erased
  · exact Bool.eq_false_iff.mpr ‹_›

/-! ## The resets (R171, R184, R188, R189) -/

/-- Settles O2: every reset is `State.resetPart`, which starts the link and the settings store over. -/
theorem resetRestartsLinkAndSettings : Obligations.ResetRestartsLinkAndSettings := by
  intro c s cause h
  obtain ⟨s', cut, hs', he⟩ := exec_of_restarts h
  have hpending : s'.pending = s.pending := by rcases hs' with rfl | ⟨t, rfl⟩ <;> rfl
  refine ⟨_, he, rfl, hpending, rfl, rfl, rfl, rfl, rfl, rfl, rfl, rfl, rfl, rfl, rfl, rfl, fun f => ?_, rfl,
    fun f => ?_, rfl, rfl, ?_⟩
  · simp [State.resetPart, State.afterReset, ControlLink.reset, NoticeSet.empty]
  · simp [State.resetPart, State.afterReset, ControlLink.reset, NoticeSet.defaultEnables]
  · simp [State.attn, NoticeSet.meets, State.resetPart, State.afterReset, ControlLink.reset, NoticeSet.empty]

/-- R188: a save cut off rewrites its region's sector, with the snapshot when it stood at comparing, else with bytes
that do not pass. -/
theorem SettingsStore.flashAtReset_of_save {v : SettingsStore} {w : Save} (h : v.save = some w) (n : Nat) :
    v.flashAtReset n = w.region.rewrite v.flash (if w.step = 2 then w.image else cutImage w.region n) := by
  simp only [SettingsStore.flashAtReset, h]
  split <;> rfl

/-- Settles O4: the cut save's region holds what was rewritten, and the other sectors are not touched. -/
theorem resetDuringSaveLeavesRegions : Obligations.ResetDuringSaveLeavesRegions := by
  intro c s cause v h hsave hwf hlen
  obtain ⟨s', cut, hs', he⟩ := exec_of_restarts h
  have hsettings : s'.settings = s.settings := by rcases hs' with rfl | ⟨t, rfl⟩ <;> rfl
  have hflash : (s'.resetPart cause cut).settings.flash = v.region.rewrite s.settings.flash
      (if v.step = 2 then v.image else cutImage v.region s'.free.count) := by
    rw [← hsettings] at hsave ⊢
    exact SettingsStore.flashAtReset_of_save hsave _
  refine ⟨_, he, rfl, rfl, fun hstep => ?_, fun hstep => ?_, fun r hne => ?_⟩
  · rw [hflash, if_pos hstep, Region.read_rewrite hwf hlen]
  · rw [hflash, if_neg hstep, Region.read_rewrite hwf (cutImage_length _ _), cutImage_passes]
  · rw [hflash, Region.read_rewrite_other _ hwf hne]

/-! ## Saving (R186, R187) -/

/-- Settles O7: SAVE_BUSY decides, and it is set exactly while a save is in flight. -/
theorem saveSettingsStartsOneSave : Obligations.SaveSettingsStartsOneSave := by
  intro t s hd
  have he : exec (.saveSettings t) s = _ := carryOut_of_dispatches t saveSettingsStep hd
  refine ⟨fun hidle => ?_, fun hbusy => carryOut_of_refused t hd ?_⟩
  · have hstep : saveSettingsStep (s.start t) [] = ((s.start t).startSave, .set false) :=
      if_neg (by simp [State.saveBusy, hidle])
    rw [he, hstep, State.answer_set]
    rfl
  · exact if_pos (Option.isSome_iff_ne_none.mpr hbusy)

/-- R187: after FEEDS and MONITOR the save stands at the next region. -/
theorem State.saveOn_of_next (s : State) {v : Save} {r : Region} (b : Bool) (h : v.region.next = some r) :
    s.saveOn v b = { s with
      free := { s.free with count := s.free.count + 1 }
      settings := { s.settings with
        save := some { v with region := r, step := Config.saveStep s.free.count, verified := b } } } := by
  rw [State.saveOn, h]; rfl

/-- R187: after STORE the save is over and its notice becomes pending. -/
theorem State.saveOn_of_last (s : State) {v : Save} (b : Bool) (h : v.region.next = none) :
    s.saveOn v b = ({ s with settings := { s.settings with save := none } } : State).raiseDevice
      (if b then noticeSaved else noticeSaveFailed) := by
  rw [State.saveOn, h]

/-- Whatever the region, a save that goes on or completes changes the save, the pending notices and the free values
alone. -/
theorem State.saveOn_keeps (s : State) (v : Save) (b : Bool) :
    (s.saveOn v b).settings = { s.settings with save := (s.saveOn v b).settings.save } ∧
    (s.saveOn v b).link = { s.link with pending := (s.saveOn v b).link.pending } ∧
    (s.saveOn v b).feeds = s.feeds ∧ (s.saveOn v b).line = s.line ∧ (s.saveOn v b).intake = s.intake ∧
    (s.saveOn v b).store = s.store ∧ (s.saveOn v b).monitor = s.monitor ∧ (s.saveOn v b).cells = s.cells ∧
    (s.saveOn v b).pool = s.pool := by
  cases h : v.region.next with
  | some r => rw [s.saveOn_of_next b h]; exact ⟨rfl, rfl, rfl, rfl, rfl, rfl, rfl, rfl, rfl⟩
  | none => rw [s.saveOn_of_last b h]; exact ⟨rfl, rfl, rfl, rfl, rfl, rfl, rfl, rfl, rfl⟩

/-- R187: the part once a region's sector holds `bs`. -/
def State.rewriteRegion (s : State) (t : Nat) (r : Region) (bs : Bytes) : State :=
  { s.start t with settings := { s.settings with flash := r.rewrite s.settings.flash bs } }

/-- R187: what the flash then holds is the row's bytes or the image, and the region is verified when it is the image. -/
theorem execRegionWrite_of_save {s : State} {v : Save} (t : Nat) (answers : Bool) {held : Option Bytes}
    (hsave : s.settings.save = some v) (hlen : v.image.length = v.region.length)
    (hheld : ∀ bs, held = some bs → bs.length = v.region.length) :
    exec (.regionWrite t answers held) s = .next ((s.rewriteRegion t v.region (held.getD v.image)).saveOn v
      (v.verified && answers && decide (held = none ∨ held = some v.image))) := by
  have hfit : fitTo flashByte v.region.length (held.getD v.image) = held.getD v.image := by
    apply fitTo_of_length
    cases held with
    | none => exact hlen
    | some bs => exact hheld bs rfl
  have hsame : (held.getD v.image == v.image) = decide (held = none ∨ held = some v.image) := by
    rw [Bool.eq_iff_iff, beq_iff_eq, decide_eq_true_eq]
    cases held with
    | none => exact ⟨fun _ => .inl rfl, fun _ => rfl⟩
    | some bs => exact ⟨fun h => .inr (congrArg some h), fun h => h.elim nofun Option.some.inj⟩
  simp only [exec, execRegionWrite, State.start_settings, hsave, hfit, hsame]
  rfl

/-- Settles O8: `State.saveOn` keeps the flash as the region's rewrite left it, and goes on by the region written. -/
theorem regionWriteGoesOnAndCompletes : Obligations.RegionWriteGoesOnAndCompletes := by
  intro t s v answers held hsave hwf hlen hheld good
  let bs := held.getD v.image
  let s' := s.rewriteRegion t v.region bs
  have hbs : bs.length = v.region.length := by
    cases held with
    | none => exact hlen
    | some bs => exact hheld bs rfl
  obtain ⟨hsettings, hlink, hfeeds, hline, hintake, hstore, hmonitor, hcells, hpool⟩ := s'.saveOn_keeps v good
  have hflash : (s'.saveOn v good).settings.flash = v.region.rewrite s.settings.flash bs := by rw [hsettings]; rfl
  refine ⟨s'.saveOn v good, execRegionWrite_of_save t answers hsave hlen hheld, ?_, fun r hne => ?_, fun hr => ?_,
    fun hr => ?_, fun hr => ?_, ?_, hlink, hfeeds, hline, hintake, hstore, hmonitor, hcells, hpool⟩
  · rw [hflash, Region.read_rewrite hwf hbs]
  · rw [hflash, Region.read_rewrite_other bs hwf hne]
  · rw [State.saveOn_of_next s' good (r := .monitor) (by rw [hr]; rfl)]
    exact ⟨rfl, rfl⟩
  · rw [State.saveOn_of_next s' good (r := .store) (by rw [hr]; rfl)]
    exact ⟨rfl, rfl⟩
  · rw [State.saveOn_of_last s' good (by rw [hr]; rfl)]
    exact ⟨rfl, rfl, by cases good <;> rfl⟩
  · rw [hsettings]; rfl

end Sys2Proof.Machine

/-! # Start-up: what REGION_READ loads (R182 to R185, R145) -/

namespace Sys2Proof.Machine

/-! ## What a region that loads has passed (R185) -/

theorem parseFeeds_passes {bs : Bytes} {v : FeedsSettings} (h : parseFeeds bs = some v) :
    Region.feeds.passes bs = true := by
  unfold parseFeeds at h
  split at h
  · rename_i hok; exact (Bool.and_eq_true_iff.mp hok).1
  · cases h

theorem parseMonitorRegion_passes {bs : Bytes} {v : MonitorSettings} (h : parseMonitorRegion bs = some v) :
    Region.monitor.passes bs = true := by
  unfold parseMonitorRegion at h
  split at h
  · rename_i hok; exact (Bool.and_eq_true_iff.mp hok).1
  · cases h

theorem parseStoreRegion_passes {bs : Bytes} {v : StoreSettings} (h : parseStoreRegion bs = some v) :
    Region.store.passes bs = true := by
  unfold parseStoreRegion at h
  split at h
  · rename_i hok; exact (Bool.and_eq_true_iff.mp hok).1
  · cases h

/-- R150, R157: what MONITOR loads is in the ranges of SET MONITOR and SET ACTIONS. -/
theorem parseMonitorRegion_ranges {bs : Bytes} {v : MonitorSettings} (h : parseMonitorRegion bs = some v) :
    10 ≤ v.args.interval ∧ v.args.interval ≤ 1000 ∧ 1 ≤ v.args.filter ∧ v.args.filter ≤ 8 ∧
    ∀ i : FeedNo, 1 ≤ v.args.feeds[i].loss ∧ v.args.feeds[i].loss ≤ 1000 ∧ 1 ≤ v.args.feeds[i].late ∧
      v.args.feeds[i].late ≤ 65535 ∧ 1 ≤ v.args.feeds[i].patch ∧ v.args.feeds[i].patch ≤ 255 ∧
      ∀ j : Fin 17, 8 ≤ j.val → v.actions[i][j].2.drop = false := by
  obtain ⟨hclamped, hdrop⟩ := parseMonitorRegion_sound h
  obtain ⟨hi, hi', hf, hf', hfeeds⟩ := MonitorArgs.clamped_eq_self_iff.mp hclamped
  refine ⟨hi, hi', hf, hf', fun i => ?_⟩
  obtain ⟨hl, hl', ht, ht', hp, hp'⟩ := MonitorFeedArgs.clamped_eq_self_iff.mp (hfeeds i)
  exact ⟨hl, hl', ht, ht', hp, hp', dropMisplaced_eq_false.mp (hdrop i)⟩

/-! ## The regions in their order (R184) -/

theorem SettingsStore.nextRegion_feeds {v : SettingsStore} (hs : v.started = false) (hf : v.feeds = .notRead) :
    v.nextRegion = some .feeds := by
  simp [SettingsStore.nextRegion, hs, hf]

theorem SettingsStore.nextRegion_monitor {v : SettingsStore} (hs : v.started = false) (hf : v.feeds ≠ .notRead)
    (hm : v.monitor = .notRead) : v.nextRegion = some .monitor := by
  simp [SettingsStore.nextRegion, hs, hf, hm]

theorem SettingsStore.nextRegion_store {v : SettingsStore} (hs : v.started = false) (hf : v.feeds ≠ .notRead)
    (hm : v.monitor ≠ .notRead) : v.nextRegion = some .store := by
  simp [SettingsStore.nextRegion, hs, hf, hm]

/-- R185: a region's bytes judged. -/
def State.judgeRegion (s : State) : Region → Bytes → State
  | .feeds, bs => s.judgeFeeds bs
  | .monitor, bs => s.judgeMonitor bs
  | .store, bs => s.judgeStore bs

theorem execRegionRead_of_next {s : State} {r : Region} (t : Nat) (answers : Bool)
    (h : s.settings.nextRegion = some r) :
    exec (.regionRead t answers) s =
      .next ((s.start t).judgeRegion r (r.read s.settings.flash answers)) := by
  simp only [exec, execRegionRead, State.start_settings, h]
  cases r <;> rfl

/-! ## A region judged (R145, R185) -/

theorem State.judgeFeeds_of_none (s : State) {bs : Bytes} (h : parseFeeds bs = none) :
    s.judgeFeeds bs = { s with settings := { s.settings with feeds := .defaulted } } := by
  simp only [State.judgeFeeds, h]; rfl

theorem State.judgeFeeds_of_some (s : State) {bs : Bytes} {v : FeedsSettings} (h : parseFeeds bs = some v) :
    s.judgeFeeds bs = { s.loadFeeds v with settings := { s.settings with feeds := .loaded } } := by
  simp only [State.judgeFeeds, h]; rfl

theorem State.judgeMonitor_of_none (s : State) {bs : Bytes} (h : parseMonitorRegion bs = none) :
    s.judgeMonitor bs = { s with settings := { s.settings with monitor := .defaulted } } := by
  simp only [State.judgeMonitor, h]; rfl

theorem State.judgeMonitor_of_some (s : State) {bs : Bytes} {v : MonitorSettings} (h : parseMonitorRegion bs = some v) :
    s.judgeMonitor bs = { s.loadMonitor v with settings := { s.settings with monitor := .loaded } } := by
  simp only [State.judgeMonitor, h]; rfl

theorem State.judgeStore_of_none (s : State) {bs : Bytes} (h : parseStoreRegion bs = none) :
    s.judgeStore bs = { s with
      settings := { s.settings with store := .defaulted, started := true }
      store := { s.store with settling := .until (s.time + s.store.settings.timeout * 1000) } } := by
  simp only [State.judgeStore, h]; rfl

theorem State.judgeStore_of_some (s : State) {bs : Bytes} {v : StoreSettings} (h : parseStoreRegion bs = some v) :
    s.judgeStore bs = { s with
      settings := { s.settings with store := .loaded, started := true }
      store := { s.store with settings := v, settling := .until (s.time + v.timeout * 1000) } } := by
  simp only [State.judgeStore, h]; rfl

/-- R183: MONITOR's settings in force: the monitor's, every feed's thresholds, selects and action sets, and the notice
enables. -/
theorem State.loadMonitor_eq (s : State) (v : MonitorSettings) : s.loadMonitor v = { s with
    monitor := { interval := v.args.interval, filter := v.args.filter, latest := s.monitor.latest
                 nextEnd := (s.monitor.setInterval v.args.interval s.time).nextEnd }
    feeds := Vector.ofFn fun (i : Fin 8) => { s.feeds[i] with
      health := ((s.feeds[i]).health.withSettings v.args.feeds[i]).withActions v.actions[i] }
    link := { s.link with enables := v.enables } } := by
  simp only [State.loadMonitor, State.setMonitorTo, MonitorDevice.setInterval_interval,
    MonitorDevice.setInterval_latest, Fin.getElem_fin, Vector.getElem_ofFn]

/-- Settles O5: the three reads in their order, then what silence and each parser's success say of the bytes. -/
theorem regionReadLoadsOrDefaults : Obligations.RegionReadLoadsOrDefaults := by
  refine ⟨fun t answers s hs hf => ?_, fun t answers s hs hf hm => ?_, fun t answers s hs hf hm => ?_,
    fun r flash => ⟨rfl, r.passes_erased⟩, fun bs v h => ⟨parseFeeds_passes h, parseFeeds_sound h⟩,
    fun bs v h => ⟨parseMonitorRegion_passes h, parseMonitorRegion_ranges h⟩,
    fun bs v h => ⟨parseStoreRegion_passes h, parseStoreRegion_sound h⟩⟩
  · rw [execRegionRead_of_next t answers (SettingsStore.nextRegion_feeds hs hf)]
    exact ⟨fun h => congrArg _ (State.judgeFeeds_of_none _ h), fun v h => congrArg _ (State.judgeFeeds_of_some _ h)⟩
  · rw [execRegionRead_of_next t answers (SettingsStore.nextRegion_monitor hs hf hm)]
    refine ⟨fun h => congrArg _ (State.judgeMonitor_of_none _ h), fun v h => ?_⟩
    refine ⟨(s.monitor.setInterval v.args.interval (max s.time t)).nextEnd, ?_,
      fun hsame => MonitorDevice.setInterval_nextEnd_same hsame _, fun hchanged => ?_⟩
    · rw [State.judgeRegion, State.judgeMonitor_of_some _ h, State.loadMonitor_eq]
      rfl
    · have hms : 0 < v.args.interval := Nat.lt_of_lt_of_le (by decide) (parseMonitorRegion_ranges h).1
      rw [MonitorDevice.setInterval_nextEnd_changed hchanged]
      exact ⟨lt_nextMultiple hms _, nextMultiple_le _ _, nextMultiple_mod _ _⟩
  · rw [execRegionRead_of_next t answers (SettingsStore.nextRegion_store hs hf hm)]
    exact ⟨fun h => congrArg _ (State.judgeStore_of_none _ h), fun v h => congrArg _ (State.judgeStore_of_some _ h)⟩

end Sys2Proof.Machine

/-! # Regions saved and loaded back (R182, R183, R185, R186, R192) -/

namespace Sys2Proof.Machine

/-! ## Numbers written and read back -/

theorem foldl_beBytes (n v acc : Nat) :
    (beBytes n v).foldl (fun n b => n * 256 + b.toNat) acc = acc * 256 ^ n + v % 256 ^ n := by
  induction n generalizing acc with
  | zero => simp [beBytes, Nat.mod_one]
  | succ k ih =>
    have hbyte : (BitVec.ofNat 8 (v / 256 ^ k)).toNat = v / 256 ^ k % 256 := BitVec.toNat_ofNat _ _
    calc (beBytes (k + 1) v).foldl (fun n b => n * 256 + b.toNat) acc
        = (acc * 256 + v / 256 ^ k % 256) * 256 ^ k + v % 256 ^ k := by rw [beBytes, List.foldl_cons, ih, hbyte]
      _ = acc * (256 ^ k * 256) + (v % 256 ^ k + 256 ^ k * (v / 256 ^ k % 256)) := by
        rw [Nat.add_mul, Nat.mul_assoc, Nat.mul_comm 256, Nat.mul_comm (v / 256 ^ k % 256), Nat.add_assoc,
          Nat.add_comm (256 ^ k * (v / 256 ^ k % 256))]
      _ = acc * 256 ^ (k + 1) + v % 256 ^ (k + 1) := by rw [Nat.mod_pow_succ (b := 256), Nat.pow_succ]

theorem beNat_beBytes {n v : Nat} (h : v < 256 ^ n) : beNat (beBytes n v) = v := by
  rw [beNat, foldl_beBytes, Nat.mod_eq_of_lt h, Nat.zero_mul, Nat.zero_add]

theorem beNat_be1 {v : Nat} (h : v < 256) : beNat (be1 v) = v := by
  rw [be1, beNat, List.foldl_cons, List.foldl_nil, BitVec.toNat_ofNat]; omega

theorem ofNat_beNat_beWord (w : Word) : BitVec.ofNat 32 (beNat (beWord w)) = w := by
  rw [beWord, beNat_beBytes w.isLt, BitVec.ofNat_toNat, BitVec.setWidth_eq]

theorem flagOf_flag (b : Bool) : flagOf (if b then 1 else 0) = some b := by cases b <;> rfl

/-! ## Fields of joined records -/

theorem field_append_left {l r : Bytes} {o n : Nat} (h : o + n ≤ l.length) : field (l ++ r) o n = field l o n := by
  rw [field, field, List.drop_append_of_le_length (by omega), List.take_append_of_le_length (by simp; omega)]

theorem field_append_right {l r : Bytes} {o n : Nat} (h : l.length ≤ o) :
    field (l ++ r) o n = field r (o - l.length) n := by
  rw [field, field, List.drop_append, List.drop_eq_nil_of_le h, List.nil_append]

theorem field_whole {l : Bytes} {n : Nat} (h : l.length = n) : field l 0 n = l := by
  rw [field, List.drop_zero, ← h, List.take_length]

/-- One of the records of one width that a list joins. -/
theorem field_flatMap {α : Type} {f : α → Bytes} {n : Nat} (hf : ∀ x, (f x).length = n) (l : List α) (i : Nat)
    (hi : i < l.length) : field (l.flatMap f) (n * i) n = f l[i] := by
  induction l generalizing i with
  | nil => cases hi
  | cons x l ih =>
    rw [List.flatMap_cons]
    cases i with
    | zero => rw [Nat.mul_zero, field_append_left (by rw [hf]; omega), field_whole (hf x)]; rfl
    | succ i =>
      have hle : (f x).length ≤ n * (i + 1) := by rw [hf, Nat.mul_succ]; omega
      rw [field_append_right hle, hf, Nat.mul_succ, Nat.add_sub_cancel, ih i (Nat.lt_of_succ_lt_succ hi)]
      rfl

/-! ## Lists whose every part is read -/

theorem mapM_eq_some_map {α β : Type} {p : α → Option β} {f : α → β} (h : ∀ x, p x = some (f x)) (l : List α) :
    l.mapM p = some (l.map f) := by
  obtain rfl : p = fun x => pure (f x) := funext h
  exact List.mapM_pure

/-- What a numbered list of parts reads as, when part `i` reads as item `i` of a vector. -/
theorem mapM_range_eq_some {α : Type} {n : Nat} {p : Nat → Option α} {v : Vector α n}
    (h : ∀ i : Fin n, p i.val = some v[i]) : (List.range n).mapM p = some v.toList := by
  have hparts : (List.finRange n).mapM (p ∘ fun i => i.val) = some ((List.finRange n).map fun i => v[i]) :=
    mapM_eq_some_map h _
  have hrange : List.range n = (List.finRange n).map fun i => i.val := List.ext_getElem (by simp) (by simp)
  rw [hrange, List.mapM_map, hparts]
  exact congrArg some (List.ext_getElem (by simp) (by simp))

theorem eight_toList {α : Type} (v : Vector α 8) : eight v.toList = some v := by
  rw [eight, dif_pos v.length_toList]; rfl

/-! ## A region's image (R182, R186, R192) -/

theorem wordTotal_of_ne_nil {bs : Bytes} (h : bs ≠ []) (n : Nat) :
    wordTotal (n + 1) bs = BitVec.ofNat 32 (fieldNat bs 0 4) + wordTotal n (bs.drop 4) := by
  cases bs with
  | nil => exact absurd rfl h
  | cons b bs => rfl

theorem wordTotal_nil (n : Nat) : wordTotal n [] = 0 := by cases n <;> rfl

/-- The words of a record of whole words, then those that follow it. -/
theorem wordTotal_append {l : Bytes} {k n : Nat} (hl : l.length = 4 * k) (hk : k ≤ n) (r : Bytes) :
    wordTotal n (l ++ r) = wordTotal n l + wordTotal (n - k) r := by
  induction k generalizing l n with
  | zero => rw [List.length_eq_zero_iff.mp hl, wordTotal_nil]; simp
  | succ k ih =>
    obtain ⟨m, rfl⟩ : ∃ m, n = m + 1 := ⟨n - 1, by omega⟩
    have hne : l ≠ [] := fun h0 => by rw [h0, List.length_nil] at hl; omega
    have hword : fieldNat (l ++ r) 0 4 = fieldNat l 0 4 := by rw [fieldNat, field_append_left (by omega)]; rfl
    have hdrop : (l ++ r).drop 4 = l.drop 4 ++ r := List.drop_append_of_le_length (by omega)
    rw [wordTotal_of_ne_nil (by simp [hne]), wordTotal_of_ne_nil hne, hword, hdrop,
      ih (by rw [List.length_drop]; omega) (by omega), Nat.add_sub_add_right, BitVec.add_assoc]

theorem wordTotal_beWord (n : Nat) (w : Word) : wordTotal (n + 1) (beWord w) = w := by
  have hdrop : (beWord w).drop 4 = [] := rfl
  rw [wordTotal_of_ne_nil (by rw [← List.length_pos_iff, beWord_length]; decide), fieldNat,
    field_whole (beWord_length w), ofNat_beNat_beWord, hdrop, wordTotal_nil]
  exact BitVec.add_zero w

/-- R182: a region is whole words, its check word among at most 256. -/
theorem Region.length_words (r : Region) : ∃ k, r.length = 4 * (k + 1) ∧ k < 256 := by
  cases r
  · exact ⟨63, rfl, by decide⟩
  · exact ⟨255, rfl, by decide⟩
  · exact ⟨15, rfl, by decide⟩

theorem Region.image_length (r : Region) (settings : Bytes) : (r.image settings).length = r.length := by
  obtain ⟨k, hk, -⟩ := r.length_words
  rw [Region.image, List.length_append, fitTo_length, beWord_length]
  omega

theorem Region.image_mark (r : Region) (settings : Bytes) : fieldNat (r.image settings) 0 4 = r.mark := by
  have hlen : 4 ≤ r.length - 4 := by cases r <;> decide
  have hmark : r.mark < 256 ^ 4 := by cases r <;> decide
  have htake : field ((be4 r.mark ++ settings).take (r.length - 4)) 0 4 = be4 r.mark := by
    rw [field, List.drop_zero, List.take_take, Nat.min_eq_left hlen]
    exact List.take_left (l₁ := be4 r.mark)
  rw [fieldNat, Region.image, field_append_left (by rw [fitTo_length]; omega), fitTo,
    field_append_left (by rw [List.length_take, List.length_append, be4_length]; omega), htake, be4,
    beNat_beBytes hmark]

/-- R182: the check word brings the sum of the words before it to 0. -/
theorem Region.image_sum (r : Region) (settings : Bytes) : regionSum (r.image settings) = 0 := by
  obtain ⟨k, hk, hk'⟩ := r.length_words
  obtain ⟨m, hm⟩ : ∃ m, 256 - k = m + 1 := ⟨255 - k, by omega⟩
  rw [regionSum, Region.image, wordTotal_append (k := k) (by rw [fitTo_length]; omega) (by omega), hm, wordTotal_beWord,
    regionSum]
  rw [BitVec.add_comm]
  exact BitVec.sub_add_cancel 0 _

theorem Region.passes_image (r : Region) (settings : Bytes) : r.passes (r.image settings) = true := by
  simp [Region.passes, Region.image_mark, Region.image_sum]

/-- The image of settings that leave room for the mark and the check word. -/
theorem Region.image_eq {r : Region} {settings : Bytes} (h : settings.length + 8 ≤ r.length) :
    ∃ check : Word, r.image settings =
      be4 r.mark ++ (settings ++ (zeroBytes (r.length - 4 - (4 + settings.length)) ++ beWord check)) := by
  refine ⟨0 - regionSum (fitTo 0 (r.length - 4) (be4 r.mark ++ settings)), ?_⟩
  rw [Region.image, fitTo, List.take_of_length_le (by rw [List.length_append, be4_length]; omega), List.length_append,
    be4_length, List.append_assoc, List.append_assoc]
  rfl

theorem Region.field_image {r : Region} {settings : Bytes} (h : settings.length + 8 ≤ r.length) {o n : Nat}
    (ho : o + n ≤ settings.length) : field (r.image settings) (4 + o) n = field settings o n := by
  obtain ⟨check, he⟩ := Region.image_eq h
  rw [he, field_append_right (by rw [be4_length]; omega), be4_length, Nat.add_sub_cancel_left, field_append_left ho]

theorem Region.restZero_image {r : Region} {settings : Bytes} (h : settings.length + 8 ≤ r.length) :
    r.restZero (r.image settings) (4 + settings.length) = true := by
  obtain ⟨check, he⟩ := Region.image_eq h
  rw [Region.restZero, he, field_append_right (by rw [be4_length]; omega), be4_length, Nat.add_sub_cancel_left,
    field_append_right (Nat.le_refl _), Nat.sub_self, field_append_left (by simp [zeroBytes]),
    field_whole (by simp [zeroBytes])]
  simp [zeroBytes]

/-! ## The settings' records read back (R191, R192) -/

theorem parseEntry_bytes {e : FeedEntry} (hd : e.depth < 65536) (hj : e.jump < 65536) (hp : e.publish < 65536) :
    parseEntry e.bytes = some e := by
  have hpaths : e.paths.toNat < 16 := e.paths.isLt
  have ftag : fieldNat e.bytes 0 4 = beNat (beWord e.tag) := rfl
  have fenable : fieldByte e.bytes 4 = if e.enable then 1 else 0 := rfl
  have fpaths : fieldNat e.bytes 5 1 = e.paths.toNat := beNat_be1 (Nat.lt_trans hpaths (by decide))
  have fdepth : fieldNat e.bytes 6 2 = e.depth := beNat_be2 hd
  have fjump : fieldNat e.bytes 8 2 = e.jump := beNat_be2 hj
  have fpublish : fieldNat e.bytes 10 2 = e.publish := beNat_be2 hp
  simp only [parseEntry, ftag, fenable, fpaths, fdepth, fjump, fpublish, flagOf_flag, if_pos hpaths, ofNat_beNat_beWord,
    BitVec.ofNat_toNat, BitVec.setWidth_eq]

theorem parseMonitorFeed_settingsBytes {h : Health} (hl : h.loss < 65536) (ht : h.late < 65536) (hp : h.patch < 256) :
    parseMonitorFeed h.settingsBytes =
      some { loss := h.loss, late := h.late, patch := h.patch, autoclear := h.autoclear } := by
  have floss : fieldNat h.settingsBytes 0 2 = h.loss := beNat_be2 hl
  have flate : fieldNat h.settingsBytes 2 2 = h.late := beNat_be2 ht
  have fpatch : fieldNat h.settingsBytes 4 1 = h.patch := beNat_be1 hp
  have fautoclear : fieldByte h.settingsBytes 5 = if h.autoclear then 1 else 0 := rfl
  simp only [parseMonitorFeed, floss, flate, fpatch, fautoclear, flagOf_flag, Option.map_some]

/-- The byte of a condition's select and action set. -/
def Condition.code (c : Condition) : Byte := BitVec.ofNat 8 (c.select.code + c.actions.mask)

/-- Each of the 64 selects with an action set has a byte of its own. -/
theorem parseConditionByte_code (c : Condition) : parseConditionByte c.code = some (c.select, c.actions) := by
  have hcode : ∀ notice suspect warn error drop : Bool, ∀ select : Select,
      let a : Actions := { notice, suspect, warn, error, drop }
      parseConditionByte (BitVec.ofNat 8 (select.code + a.mask)) = some (select, a) := by
    intro notice suspect warn error drop select
    cases select <;> revert notice suspect warn error drop <;> decide
  exact hcode _ _ _ _ _ _

/-- A feed's selects and action sets. -/
def Health.condSettings (h : Health) : Vector (Select × Actions) 17 :=
  Vector.ofFn fun (j : Fin 17) => (h.conds[j].select, h.conds[j].actions)

theorem Health.condBytes_length (h : Health) : (h.conds.toList.flatMap Condition.byte).length = 17 := by
  rw [flatMap_length_of_const (f := Condition.byte) (fun _ => be1_length _), Vector.length_toList]

theorem parseConditions_bytes (h : Health) :
    parseConditions (h.conds.toList.flatMap Condition.byte) = some h.condSettings := by
  have hbytes : h.conds.toList.flatMap Condition.byte = h.conds.toList.map Condition.code :=
    (List.map_eq_flatMap).symm
  have hparts : (h.conds.toList.map Condition.code).mapM parseConditionByte =
      some (h.conds.toList.map fun c => (c.select, c.actions)) := by
    rw [List.mapM_map]; exact mapM_eq_some_map parseConditionByte_code _
  have hlist : h.conds.toList.map (fun c => (c.select, c.actions)) = h.condSettings.toList :=
    List.ext_getElem (by simp) (by simp [Health.condSettings])
  have htake : (h.conds.toList.map Condition.code).take 17 = h.conds.toList.map Condition.code :=
    List.take_of_length_le (by simp)
  simp only [parseConditions, hbytes, htake, hparts, hlist]
  rw [dif_pos (Vector.length_toList (xs := h.condSettings))]
  rfl

theorem parseNotices_bytes (n : NoticeSet) : parseNotices n.bytes = some n := by
  have hwidth : ∀ m : BitVec 19, (be4 m.toNat).length = 4 := fun _ => be4_length _
  have hfeedBytes : (n.feeds.toList.flatMap fun m => be4 m.toNat).length = 32 := by
    rw [flatMap_length_of_const hwidth, Vector.length_toList]
  have hfeed : ∀ i : Fin 8, fieldNat n.bytes (4 * i.val) 4 = n.feeds[i].toNat := by
    intro i
    have hm : n.feeds[i].toNat < 256 ^ 4 := Nat.lt_trans n.feeds[i].isLt (by decide)
    rw [fieldNat, NoticeSet.bytes, field_append_left (by omega), field_flatMap hwidth _ _ (by simp),
      Vector.getElem_toList]
    exact beNat_beBytes hm
  have hdevice : fieldNat n.bytes 32 1 = n.device.toNat := by
    rw [fieldNat, NoticeSet.bytes, field_append_right (Nat.le_of_eq hfeedBytes), hfeedBytes, field_whole (be1_length _)]
    exact beNat_be1 (Nat.lt_trans n.device.isLt (by decide))
  have hnamed : (List.range 8).all (fun i => decide (fieldNat n.bytes (4 * i) 4 < 2 ^ 19)) = true ∧
      fieldNat n.bytes 32 1 < 16 := by
    refine ⟨List.all_eq_true.mpr fun i hi => decide_eq_true ?_, hdevice ▸ n.device.isLt⟩
    have hi8 : i < 8 := List.mem_range.mp hi
    rw [hfeed ⟨i, hi8⟩]
    exact BitVec.isLt _
  rw [parseNotices, if_pos hnamed]
  simp only [hfeed, hdevice, BitVec.ofNat_toNat, BitVec.setWidth_eq]
  congr 2
  exact Vector.ext (by simp)

theorem Floor.ofCode_code (f : Floor) : Floor.ofCode f.code = some f := by cases f <;> rfl

theorem parseStore_bytes {v : StoreSettings} (h : v.sound) : parseStore v.bytes = some v := by
  obtain ⟨hi, he, hb, -, hw, -, ht⟩ := h
  have lane : ∀ l : BitVec 2, l ≠ 0 → 1 ≤ l.toNat ∧ l.toNat < 4 := by decide
  have findex : fieldNat v.bytes 0 1 = v.indexLanes.toNat := beNat_be1 (Nat.lt_trans v.indexLanes.isLt (by decide))
  have fessence : fieldNat v.bytes 1 1 = v.essenceLanes.toNat :=
    beNat_be1 (Nat.lt_trans v.essenceLanes.isLt (by decide))
  have fbrowse : fieldNat v.bytes 2 1 = v.browseLanes.toNat := beNat_be1 (Nat.lt_trans v.browseLanes.isLt (by decide))
  have ffloor : fieldNat v.bytes 3 1 = v.floor.code := beNat_be1 (by cases v.floor <;> decide)
  have fwater : fieldNat v.bytes 4 1 = v.highWater := beNat_be1 (by omega)
  have ftimeout : fieldNat v.bytes 5 2 = v.timeout := beNat_be2 (by omega)
  have hlanes : (List.range 3).all (fun i => decide (1 ≤ fieldNat v.bytes i 1 ∧ fieldNat v.bytes i 1 < 4)) = true := by
    have hr : List.range 3 = [0, 1, 2] := rfl
    simp [hr, findex, fessence, fbrowse, lane _ hi, lane _ he, lane _ hb]
  simp only [parseStore, ffloor, Floor.ofCode_code, if_pos hlanes, findex, fessence, fbrowse, fwater, ftimeout,
    BitVec.ofNat_toNat, BitVec.setWidth_eq]

/-! ## The FEEDS region (R183, R185) -/

theorem State.entryBytes_length (s : State) : (s.feeds.toList.flatMap fun x => x.entry.bytes).length = 96 := by
  rw [flatMap_length_of_const (f := fun x : Feed => x.entry.bytes) (fun x => x.entry.bytes_length),
    Vector.length_toList]

theorem State.feedsSettings_length (s : State) : s.feedsSettings.length = 102 := by
  rw [State.feedsSettings, List.length_append, List.length_append, s.entryBytes_length, beWord_length, be2_length]

theorem State.feedsSettings_entry (s : State) (i : Fin 8) :
    field s.feedsSettings (12 * i.val) 12 = (s.feed i).entry.bytes := by
  have hlen := s.entryBytes_length
  rw [State.feedsSettings, List.append_assoc, field_append_left (by omega),
    field_flatMap (f := fun x : Feed => x.entry.bytes) (fun x => x.entry.bytes_length) _ _ (by simp)]
  rfl

theorem State.feedsSettings_address (s : State) : field s.feedsSettings 96 4 = beWord s.line.address := by
  have hlen := s.entryBytes_length
  rw [State.feedsSettings, List.append_assoc, field_append_right (by omega), hlen,
    field_append_left (Nat.le_refl 4), field_whole (beWord_length _)]

theorem State.feedsSettings_port (s : State) : field s.feedsSettings 100 2 = be2 s.line.udpPort := by
  have hlen := s.entryBytes_length
  rw [State.feedsSettings, field_append_right (by rw [List.length_append, beWord_length]; omega), List.length_append,
    hlen, beWord_length, field_whole (be2_length _)]

/-- The feed table in force. -/
def State.entryTable (s : State) : Vector FeedEntry 8 := Vector.ofFn fun (i : Fin 8) => (s.feed i).entry

theorem State.entryTable_get (s : State) (i : Fin 8) : s.entryTable[i] = (s.feed i).entry := by
  simp [State.entryTable]

/-- Entries in force that are sound need no clamping. -/
theorem State.settingsSound.entryTable_clamped {s : State} (h : s.settingsSound) :
    s.entryTable.toList.all (fun e => e.clamped == e) = true := by
  obtain ⟨hentries, -⟩ := h
  refine (vector_all_iff s.entryTable _).mpr fun i => beq_iff_eq.mpr ?_
  obtain ⟨hd, hd', hj, hp, hp', -⟩ := hentries i
  rw [s.entryTable_get, FeedEntry.clamped_eq_self_iff]
  exact ⟨hd, hd', hj, hp, hp'⟩

/-- Entries in force that are sound pass R185's test 4. -/
theorem State.settingsSound.entryTable_clash {s : State} (h : s.settingsSound) :
    entriesClash s.entryTable = false := by
  obtain ⟨hentries, -, -, -, -, -, -, -, -, htags⟩ := h
  rw [entriesClash_eq_false]
  simp only [s.entryTable_get]
  intro i hi
  obtain ⟨-, -, -, -, -, hpath⟩ := hentries i
  exact ⟨hpath hi, fun j hne hj => htags j i hne hj hi⟩

theorem parseFeeds_image {s : State} (h : s.settingsSound) :
    parseFeeds (Region.feeds.image s.feedsSettings) =
      some { entries := s.entryTable, address := s.line.address, port := s.line.udpPort } := by
  have hclamped := h.entryTable_clamped
  have hclash := h.entryTable_clash
  obtain ⟨hentries, -, -, hport, hport', -⟩ := h
  have hlen := s.feedsSettings_length
  have hroom : s.feedsSettings.length + 8 ≤ Region.feeds.length := by rw [hlen]; decide
  have hentry : ∀ i : Fin 8,
      parseEntry (field (Region.feeds.image s.feedsSettings) (4 + 12 * i.val) 12) = some s.entryTable[i] := by
    intro i
    obtain ⟨-, hdepth, hjump, -, hpublish, -⟩ := hentries i
    rw [Region.field_image hroom (by omega), s.feedsSettings_entry, s.entryTable_get]
    exact parseEntry_bytes (Nat.lt_of_le_of_lt hdepth (by decide)) (Nat.lt_of_le_of_lt hjump (by decide))
      (Nat.lt_of_le_of_lt hpublish (by decide))
  have haddress : BitVec.ofNat 32 (fieldNat (Region.feeds.image s.feedsSettings) 100 4) = s.line.address := by
    rw [fieldNat, Region.field_image (o := 96) hroom (by omega), s.feedsSettings_address, ofNat_beNat_beWord]
  have hudp : fieldNat (Region.feeds.image s.feedsSettings) 104 2 = s.line.udpPort := by
    rw [fieldNat, Region.field_image (o := 100) hroom (by omega), s.feedsSettings_port, beNat_be2 (by omega)]
  have hzero : Region.feeds.restZero (Region.feeds.image s.feedsSettings) 106 = true := by
    have hrest := Region.restZero_image hroom
    rwa [hlen] at hrest
  have hne : (s.line.udpPort != 0) = true := bne_iff_ne.mpr (by omega)
  rw [parseFeeds, if_pos (by rw [Region.passes_image, hzero]; rfl), mapM_range_eq_some hentry, Option.bind_some,
    eight_toList]
  dsimp only
  rw [haddress, hudp, if_pos (by rw [hclamped, hclash, hne]; rfl)]

/-! ## The MONITOR region (R183, R185) -/

theorem Health.settingsBytes_length (h : Health) : h.settingsBytes.length = 6 := by simp [Health.settingsBytes]

/-- The SET MONITOR body of the settings in force (R192). -/
def State.monitorBytes (s : State) : Bytes :=
  be2 s.monitor.interval ++ be1 s.monitor.filter ++ s.feeds.toList.flatMap fun x => x.health.settingsBytes

/-- The condition bytes of every feed, as the region holds them (R192). -/
def State.conditionBytes (s : State) : Bytes :=
  s.feeds.toList.flatMap fun x => x.health.conds.toList.flatMap Condition.byte

theorem State.monitorSettings_eq (s : State) :
    s.monitorSettings = s.monitorBytes ++ (s.conditionBytes ++ s.link.enables.bytes) := by
  simp only [State.monitorSettings, State.monitorBytes, State.conditionBytes, List.append_assoc]

theorem State.monitorBytes_length (s : State) : s.monitorBytes.length = 51 := by
  simp [State.monitorBytes, flatMap_length_of_const (f := fun x : Feed => x.health.settingsBytes)
    (fun x => x.health.settingsBytes_length)]

theorem State.conditionBytes_length (s : State) : s.conditionBytes.length = 136 := by
  rw [State.conditionBytes, flatMap_length_of_const (fun x => x.health.condBytes_length), Vector.length_toList]

theorem State.monitorSettings_length (s : State) : s.monitorSettings.length = 220 := by
  rw [State.monitorSettings_eq, List.length_append, List.length_append, s.monitorBytes_length,
    s.conditionBytes_length, NoticeSet.bytes_length]

/-- SET MONITOR's arguments that give the settings in force. -/
def State.monitorArgs (s : State) : MonitorArgs :=
  { interval := s.monitor.interval, filter := s.monitor.filter,
    feeds := Vector.ofFn fun (i : Fin 8) =>
      { loss := (s.health i).loss, late := (s.health i).late, patch := (s.health i).patch,
        autoclear := (s.health i).autoclear } }

theorem State.monitorArgs_feeds (s : State) (i : Fin 8) : s.monitorArgs.feeds[i] =
    { loss := (s.health i).loss, late := (s.health i).late, patch := (s.health i).patch,
      autoclear := (s.health i).autoclear } := by
  simp [State.monitorArgs]

theorem State.settingsSound.monitorArgs_clamped {s : State} (h : s.settingsSound) :
    s.monitorArgs.clamped = s.monitorArgs := by
  obtain ⟨-, hhealth, -, -, -, hi, hi', hf, hf', -⟩ := h
  refine MonitorArgs.clamped_eq_self_iff.mpr ⟨hi, hi', hf, hf', fun i => MonitorFeedArgs.clamped_eq_self_iff.mpr ?_⟩
  obtain ⟨hl, hl', ht, ht', hp, hp', -⟩ := hhealth i
  rw [s.monitorArgs_feeds]
  exact ⟨hl, hl', ht, ht', hp, hp'⟩

theorem parseMonitor_bytes {s : State} (h : s.settingsSound) : parseMonitor s.monitorBytes = some s.monitorArgs := by
  obtain ⟨-, hhealth, -, -, -, -, hi, -, hf, -⟩ := h
  have hlen := s.monitorBytes_length
  have hwidth : ∀ x : Feed, x.health.settingsBytes.length = 6 := fun x => x.health.settingsBytes_length
  have hinterval : fieldNat s.monitorBytes 0 2 = s.monitor.interval := beNat_be2 (by omega)
  have hfilter : fieldNat s.monitorBytes 2 1 = s.monitor.filter := beNat_be1 (by omega)
  have hfeed : ∀ i : Fin 8,
      parseMonitorFeed (field s.monitorBytes (3 + 6 * i.val) 6) = some s.monitorArgs.feeds[i] := by
    intro i
    obtain ⟨-, hloss, -, hlate, -, hpatch, -⟩ := hhealth i
    rw [State.monitorBytes, field_append_right (by simp), List.length_append, be2_length, be1_length,
      Nat.add_sub_cancel_left, field_flatMap hwidth _ _ (by simp), s.monitorArgs_feeds]
    exact parseMonitorFeed_settingsBytes (Nat.lt_of_le_of_lt hloss (by decide)) (Nat.lt_of_le_of_lt hlate (by decide))
      (Nat.lt_of_le_of_lt hpatch (by decide))
  have hfeeds := mapM_range_eq_some (p := fun i => parseMonitorFeed (field s.monitorBytes (3 + 6 * i) 6)) hfeed
  simp only [parseMonitor, hfeeds, hinterval, hfilter]
  rw [dif_pos (Vector.length_toList (xs := s.monitorArgs.feeds))]
  rfl

theorem State.monitorSettings_args (s : State) : field s.monitorSettings 0 51 = s.monitorBytes := by
  rw [State.monitorSettings_eq, field_append_left (Nat.le_of_eq s.monitorBytes_length.symm),
    field_whole s.monitorBytes_length]

theorem State.monitorSettings_conditions (s : State) (i : Fin 8) :
    field s.monitorSettings (51 + 17 * i.val) 17 = (s.health i).conds.toList.flatMap Condition.byte := by
  rw [State.monitorSettings_eq, field_append_right (by rw [s.monitorBytes_length]; omega), s.monitorBytes_length,
    Nat.add_sub_cancel_left, field_append_left (by rw [s.conditionBytes_length]; omega), State.conditionBytes,
    field_flatMap (fun x => x.health.condBytes_length) _ _ (by simp)]
  rfl

theorem State.monitorSettings_enables (s : State) : field s.monitorSettings 187 33 = s.link.enables.bytes := by
  rw [State.monitorSettings_eq, field_append_right (by rw [s.monitorBytes_length]; omega), s.monitorBytes_length,
    field_append_right (Nat.le_of_eq s.conditionBytes_length), s.conditionBytes_length,
    field_whole (NoticeSet.bytes_length _)]

/-- Every feed's selects and action sets in force. -/
def State.actionTable (s : State) : Vector (Vector (Select × Actions) 17) 8 :=
  Vector.ofFn fun (i : Fin 8) => (s.health i).condSettings

theorem State.actionTable_get (s : State) (i : Fin 8) : s.actionTable[i] = (s.health i).condSettings := by
  simp [State.actionTable]

/-- Action sets in force that are sound hold no misplaced DROP (R157). -/
theorem State.settingsSound.actionTable_placed {s : State} (h : s.settingsSound) :
    s.actionTable.toList.all (fun x => !dropMisplaced x) = true := by
  obtain ⟨-, hhealth, -⟩ := h
  refine (vector_all_iff s.actionTable _).mpr fun i => ?_
  obtain ⟨-, -, -, -, -, -, hnoDrop⟩ := hhealth i
  rw [s.actionTable_get, Bool.not_eq_true', dropMisplaced_eq_false]
  exact fun j hj => by simpa [Health.condSettings] using hnoDrop j hj

theorem parseMonitorRegion_image {s : State} (h : s.settingsSound) :
    parseMonitorRegion (Region.monitor.image s.monitorSettings) =
      some { args := s.monitorArgs, actions := s.actionTable, enables := s.link.enables } := by
  have hlen := s.monitorSettings_length
  have hroom : s.monitorSettings.length + 8 ≤ Region.monitor.length := by rw [hlen]; decide
  have hargs : field (Region.monitor.image s.monitorSettings) 4 51 = s.monitorBytes := by
    rw [Region.field_image (o := 0) hroom (by omega), s.monitorSettings_args]
  have hconds : ∀ i : Fin 8,
      parseConditions (field (Region.monitor.image s.monitorSettings) (55 + 17 * i.val) 17) =
        some s.actionTable[i] := by
    intro i
    have hoffset : 55 + 17 * i.val = 4 + (51 + 17 * i.val) := by omega
    rw [hoffset, Region.field_image hroom (by omega), s.monitorSettings_conditions, s.actionTable_get]
    exact parseConditions_bytes _
  have henables : field (Region.monitor.image s.monitorSettings) 191 33 = s.link.enables.bytes := by
    rw [Region.field_image (o := 187) hroom (by omega), s.monitorSettings_enables]
  have hzero : Region.monitor.restZero (Region.monitor.image s.monitorSettings) 224 = true := by
    have hrest := Region.restZero_image hroom
    rwa [hlen] at hrest
  rw [parseMonitorRegion, if_pos (by rw [Region.passes_image, hzero]; rfl), hargs, parseMonitor_bytes h,
    mapM_range_eq_some hconds, Option.bind_some, eight_toList, henables, parseNotices_bytes]
  dsimp only
  rw [if_pos (by rw [h.monitorArgs_clamped, h.actionTable_placed, beq_self_eq_true]; rfl)]

/-! ## The STORE region (R183, R185) -/

theorem parseStoreRegion_image {v : StoreSettings} (h : v.sound) :
    parseStoreRegion (Region.store.image v.bytes) = some v := by
  have hlen : v.bytes.length = 7 := rfl
  have hroom : v.bytes.length + 8 ≤ Region.store.length := by rw [hlen]; decide
  have hfield : field (Region.store.image v.bytes) 4 7 = v.bytes := by
    rw [Region.field_image (o := 0) hroom (Nat.le_refl _), field_whole hlen]
  have hzero : Region.store.restZero (Region.store.image v.bytes) 11 = true := Region.restZero_image hroom
  have hclamped : v.clamped = v := by
    obtain ⟨-, -, -, hw, hw', ht, ht'⟩ := h
    rw [StoreSettings.clamped, clamp_eq_self_iff.mpr ⟨hw, hw'⟩, clamp_eq_self_iff.mpr ⟨ht, ht'⟩]
  rw [parseStoreRegion, if_pos (by rw [Region.passes_image, hzero]; rfl), hfield, parseStore_bytes h]
  dsimp only
  rw [if_pos (beq_iff_eq.mpr hclamped)]

/-- Settles O6: the image's three facts, then each region's settings read back field by field. -/
theorem savedRegionsLoadBack : Obligations.SavedRegionsLoadBack := by
  refine ⟨fun r settings => ⟨r.image_length settings, r.image_mark settings, r.image_sum settings⟩, fun s h => ?_⟩
  obtain ⟨-, -, hstore, -⟩ := id h
  exact ⟨parseFeeds_image h, parseMonitorRegion_image h, parseStoreRegion_image hstore⟩

end Sys2Proof.Machine

/-! # The step: the command at the front of the queue -/

namespace Sys2Proof.Machine

/-- Settles O1: `step` chooses by the queue alone, and a queue with a front command selects the executing branch. -/
theorem stepRunsFrontCommand : Obligations.StepRunsFrontCommand := by
  intro c rest s hqueue
  rw [step, hqueue]

end Sys2Proof.Machine
